-- ==== Sys2Proof/Word.lean ====
section
/-!
DEFINITION. The word types of CK16PF (00_scope.md R6): every value the spec treats as bits is a bit vector of
the width the spec gives it, unsigned throughout.
-/

namespace Sys2Proof

/-- A byte: a wire byte, a buffer location, a field register (R6, R42). -/
abbrev Byte := BitVec 8

/-- A 16-bit quantity: accumulators, checksums, `argument`, operand and data fields (R15, R20, R28, R62, R66). -/
abbrev Half := BitVec 16

/-- A position register, 9 bits (R19, R27). -/
abbrev Pos := BitVec 9

/-- A command word, 24 bits (R62). -/
abbrev CmdWord := BitVec 24

/-- A response word, 24 bits (R66). -/
abbrev RspWord := BitVec 24

end Sys2Proof
end

