-- ==== Sys2Proof/Syntax.lean ====
section
/-!
DEFINITION. The operations of CK16PF as terms: one constructor for each of the 27 rows of spec/opcode_table.json
(30_encoding.md R65). An operand has the width its format gives it (R63), so every term can be encoded.
-/

namespace Sys2Proof

/-- The three operand formats (R63). -/
inductive Format
  /-- Z: no operand, `cmd[15:0]` must be 0. -/
  | z
  /-- B: a byte operand `imm8`, `cmd[15:8]` must be 0. -/
  | b
  /-- H: a 16-bit operand `imm16`. -/
  | h
  deriving DecidableEq, Repr

/-- An operation (R65), by unit: CS, TX, RX, system. -/
inductive Instr
  | csClr
  | csAdd (imm8 : Byte)
  | csGet
  | txClr
  | txSetSrc (imm8 : Byte)
  | txSetDst (imm8 : Byte)
  | txSetCmd (imm8 : Byte)
  | txSetArg (imm16 : Half)
  | txPush (imm8 : Byte)
  | txStart
  | txPop
  | txStat
  | txGetLen
  | rxClr
  | rxPush (imm8 : Byte)
  | rxEnd
  | rxStat
  | rxGetSrc
  | rxGetDst
  | rxGetCmd
  | rxGetArg
  | rxGetLen
  | rxRdBuf (imm8 : Byte)
  | rxGetCk
  | rxGetCalc
  | addrCls (imm8 : Byte)
  | cfgGet
  deriving DecidableEq, Repr

end Sys2Proof
end

