-- ==== Sys2Proof/WellFormed.lean ====
section
/-!
DEFINITION. Well-formedness of operations: the operand lies in the bits its format gives it (30_encoding.md R63).
The types of `Instr` already see to it, so every term passes (`Instr.wellFormed_all`); the check on a format and a
16-bit operand field, `Format.admits`, is the one that can fail. (Well-formedness of a Packet, R11, needs the
instance's parameters and stands in Machine/Codec.lean.)
-/

namespace Sys2Proof

/-- The bits of `cmd[15:0]` that a format lets an operand use (R63, the complement of the row's mask). -/
def Format.operandMask : Format → Half
  | .z => 0x0000
  | .b => 0x00FF
  | .h => 0xFFFF

/-- An operand field is admitted by a format when every "must be 0" bit is 0 (R63). -/
def Format.admits (f : Format) (x : Half) : Bool := (x &&& ~~~ f.operandMask) == 0

/-- The operand of each operation lies in the bits of its format (R63, R65). -/
def Instr.wellFormed : Instr → Bool
  | .csClr => Format.z.admits 0
  | .csAdd imm8 => Format.b.admits (imm8.zeroExtend 16)
  | .csGet => Format.z.admits 0
  | .txClr => Format.z.admits 0
  | .txSetSrc imm8 => Format.b.admits (imm8.zeroExtend 16)
  | .txSetDst imm8 => Format.b.admits (imm8.zeroExtend 16)
  | .txSetCmd imm8 => Format.b.admits (imm8.zeroExtend 16)
  | .txSetArg imm16 => Format.h.admits imm16
  | .txPush imm8 => Format.b.admits (imm8.zeroExtend 16)
  | .txStart => Format.z.admits 0
  | .txPop => Format.z.admits 0
  | .txStat => Format.z.admits 0
  | .txGetLen => Format.z.admits 0
  | .rxClr => Format.z.admits 0
  | .rxPush imm8 => Format.b.admits (imm8.zeroExtend 16)
  | .rxEnd => Format.z.admits 0
  | .rxStat => Format.z.admits 0
  | .rxGetSrc => Format.z.admits 0
  | .rxGetDst => Format.z.admits 0
  | .rxGetCmd => Format.z.admits 0
  | .rxGetArg => Format.z.admits 0
  | .rxGetLen => Format.z.admits 0
  | .rxRdBuf imm8 => Format.b.admits (imm8.zeroExtend 16)
  | .rxGetCk => Format.z.admits 0
  | .rxGetCalc => Format.z.admits 0
  | .addrCls imm8 => Format.b.admits (imm8.zeroExtend 16)
  | .cfgGet => Format.z.admits 0

end Sys2Proof
end

