-- ==== Sys2Proof/Decode.lean ====
section
/-!
DEFINITION. The command word: the opcode table (30_encoding.md R65), the decoder (R62, R63, R68 step 1, R69) and,
after it, the encoder. The decoder is total on all 2^24 words and rejects by name.
-/

namespace Sys2Proof

/-- `cmd[23:16]` (R62). -/
def opcodeField (w : CmdWord) : Byte := w.extractLsb' 16 8

/-- `cmd[15:0]` (R62). -/
def operandField (w : CmdWord) : Half := w.extractLsb' 0 16

/-- Why a command word is illegal: the three cases of R69. -/
inductive DecodeError
  /-- R69 (a): the opcode is not one of the 27 of R65. -/
  | unassignedOpcode (opcode : Byte)
  /-- R69 (b): format Z with `cmd[15:0] != 0`. -/
  | nonzeroOperand (operand : Half)
  /-- R69 (c): format B with `cmd[15:8] != 0`. -/
  | nonzeroHighByte (operand : Half)
  deriving DecidableEq, Repr

/-- Format Z: the operand field must be 0 (R63). -/
def decodeZ (i : Instr) (x : Half) : Except DecodeError Instr :=
  if x = 0 then .ok i else .error (.nonzeroOperand x)

/-- Format B: `imm8 = cmd[7:0]` and `cmd[15:8]` must be 0 (R63). -/
def decodeB (f : Byte → Instr) (x : Half) : Except DecodeError Instr :=
  if x.extractLsb' 8 8 = 0 then .ok (f (x.extractLsb' 0 8)) else .error (.nonzeroHighByte x)

/-- Format H: `imm16 = cmd[15:0]`, no must-be-zero bits (R63, R97). -/
def decodeH (f : Half → Instr) (x : Half) : Except DecodeError Instr := .ok (f x)

/-- The operation that an opcode and an operand field select (R65), or why they select none (R69). -/
def decodeFields (op : Byte) (x : Half) : Except DecodeError Instr :=
  match op with
  | 0x10#8 => decodeZ .csClr x
  | 0x11#8 => decodeB .csAdd x
  | 0x12#8 => decodeZ .csGet x
  | 0x20#8 => decodeZ .txClr x
  | 0x21#8 => decodeB .txSetSrc x
  | 0x22#8 => decodeB .txSetDst x
  | 0x23#8 => decodeB .txSetCmd x
  | 0x24#8 => decodeH .txSetArg x
  | 0x25#8 => decodeB .txPush x
  | 0x26#8 => decodeZ .txStart x
  | 0x27#8 => decodeZ .txPop x
  | 0x28#8 => decodeZ .txStat x
  | 0x29#8 => decodeZ .txGetLen x
  | 0x30#8 => decodeZ .rxClr x
  | 0x31#8 => decodeB .rxPush x
  | 0x32#8 => decodeZ .rxEnd x
  | 0x33#8 => decodeZ .rxStat x
  | 0x34#8 => decodeZ .rxGetSrc x
  | 0x35#8 => decodeZ .rxGetDst x
  | 0x36#8 => decodeZ .rxGetCmd x
  | 0x37#8 => decodeZ .rxGetArg x
  | 0x38#8 => decodeZ .rxGetLen x
  | 0x39#8 => decodeB .rxRdBuf x
  | 0x3A#8 => decodeZ .rxGetCk x
  | 0x3B#8 => decodeZ .rxGetCalc x
  | 0x40#8 => decodeB .addrCls x
  | 0x41#8 => decodeZ .cfgGet x
  | _ => .error (.unassignedOpcode op)

/-- The operation a command word selects, or why it selects none: R68 step (1). -/
def decode (w : CmdWord) : Except DecodeError Instr := decodeFields (opcodeField w) (operandField w)

/-- The operation the decoder reads from the first `nbits` bits of `w`, every higher bit 0. A command word is one
24-bit word with bit 0 its least significant bit (R62), so what is left must fit 24 bits. -/
def decodeTableWord (nbits w : Nat) : Option Instr :=
  if w % 2 ^ nbits < 2 ^ 24 then
    match decode (BitVec.ofNat 24 (w % 2 ^ nbits)) with
    | .ok i => some i
    | .error _ => none
  else none

/-- The opcode of an operation (R65). -/
def Instr.opcode : Instr → Byte
  | .csClr => 0x10
  | .csAdd _ => 0x11
  | .csGet => 0x12
  | .txClr => 0x20
  | .txSetSrc _ => 0x21
  | .txSetDst _ => 0x22
  | .txSetCmd _ => 0x23
  | .txSetArg _ => 0x24
  | .txPush _ => 0x25
  | .txStart => 0x26
  | .txPop => 0x27
  | .txStat => 0x28
  | .txGetLen => 0x29
  | .rxClr => 0x30
  | .rxPush _ => 0x31
  | .rxEnd => 0x32
  | .rxStat => 0x33
  | .rxGetSrc => 0x34
  | .rxGetDst => 0x35
  | .rxGetCmd => 0x36
  | .rxGetArg => 0x37
  | .rxGetLen => 0x38
  | .rxRdBuf _ => 0x39
  | .rxGetCk => 0x3A
  | .rxGetCalc => 0x3B
  | .addrCls _ => 0x40
  | .cfgGet => 0x41

/-- The operand field of an operation, the "must be 0" bits being 0 (R63, R64). -/
def Instr.operand : Instr → Half
  | .csAdd imm8 => imm8.zeroExtend 16
  | .txSetSrc imm8 => imm8.zeroExtend 16
  | .txSetDst imm8 => imm8.zeroExtend 16
  | .txSetCmd imm8 => imm8.zeroExtend 16
  | .txSetArg imm16 => imm16
  | .txPush imm8 => imm8.zeroExtend 16
  | .rxPush imm8 => imm8.zeroExtend 16
  | .rxRdBuf imm8 => imm8.zeroExtend 16
  | .addrCls imm8 => imm8.zeroExtend 16
  | .csClr | .csGet | .txClr | .txStart | .txPop | .txStat | .txGetLen | .rxClr | .rxEnd | .rxStat | .rxGetSrc
  | .rxGetDst | .rxGetCmd | .rxGetArg | .rxGetLen | .rxGetCk | .rxGetCalc | .cfgGet => 0

/-- The command word of an operation: `opcode` in bits 23:16, `operand` in bits 15:0 (R62). -/
def encode (i : Instr) : CmdWord := i.opcode ++ i.operand

/-- A row of the opcode table (R65 and spec/opcode_table.json). -/
structure OpcodeRow where
  mnemonic : String
  format : Format
  pattern : CmdWord
  deriving DecidableEq, Repr

/-- The `mask` of a row (R63): every bit that the format does not give to an operand. -/
def OpcodeRow.mask (r : OpcodeRow) : CmdWord := 0xFF#8 ++ ~~~ r.format.operandMask

/-- A command word matches a row when `cmd AND mask = match` (R63). -/
def OpcodeRow.accepts (r : OpcodeRow) (w : CmdWord) : Bool := (w &&& r.mask) == r.pattern

/-- The 27 rows of the opcode table (R65). -/
def opcodeTable : List OpcodeRow :=
  [ ⟨"CS_CLR", .z, 0x100000⟩, ⟨"CS_ADD", .b, 0x110000⟩, ⟨"CS_GET", .z, 0x120000⟩,
    ⟨"TX_CLR", .z, 0x200000⟩, ⟨"TX_SETSRC", .b, 0x210000⟩, ⟨"TX_SETDST", .b, 0x220000⟩,
    ⟨"TX_SETCMD", .b, 0x230000⟩, ⟨"TX_SETARG", .h, 0x240000⟩, ⟨"TX_PUSH", .b, 0x250000⟩,
    ⟨"TX_START", .z, 0x260000⟩, ⟨"TX_POP", .z, 0x270000⟩, ⟨"TX_STAT", .z, 0x280000⟩,
    ⟨"TX_GETLEN", .z, 0x290000⟩, ⟨"RX_CLR", .z, 0x300000⟩, ⟨"RX_PUSH", .b, 0x310000⟩,
    ⟨"RX_END", .z, 0x320000⟩, ⟨"RX_STAT", .z, 0x330000⟩, ⟨"RX_GETSRC", .z, 0x340000⟩,
    ⟨"RX_GETDST", .z, 0x350000⟩, ⟨"RX_GETCMD", .z, 0x360000⟩, ⟨"RX_GETARG", .z, 0x370000⟩,
    ⟨"RX_GETLEN", .z, 0x380000⟩, ⟨"RX_RDBUF", .b, 0x390000⟩, ⟨"RX_GETCK", .z, 0x3A0000⟩,
    ⟨"RX_GETCALC", .z, 0x3B0000⟩, ⟨"ADDR_CLS", .b, 0x400000⟩, ⟨"CFG_GET", .z, 0x410000⟩ ]

end Sys2Proof
end

