-- ==== Sys2Proof/Config.lean ====
section
/-!
DEFINITION. The two parameters that fix a CK16PF instance (00_scope.md R4). They are constants of the instance:
no operation and no reset changes them (R39, R176).
-/

namespace Sys2Proof

/-- `ARG_BYTES`, the number of bytes the `argument` field takes on the wire: 1 or 2, no other value is an
instance of CK16PF (R4, 93 U5). -/
inductive ArgBytes
  | one
  | two
  deriving DecidableEq, Repr

/-- The parameters of an instance with their defaults (R4). `PAYLOAD_MAX` is 0 to 255, so a byte holds exactly its
legal values. -/
structure Config where
  argBytes : ArgBytes := .one
  payloadMax : Byte := 255
  deriving DecidableEq, Repr

end Sys2Proof
end

