-- ==== Sys2Proof/Machine/State.lean ====
section
/-!
DEFINITION. The state of a CK16PF instance: every register and buffer of 10_state.md (R13), grouped by unit as the
spec groups them, and three fields of the model's own: the instance's parameters, the operations the host will
issue next and the responses produced so far. The reset values are those of R38.
-/

namespace Sys2Proof.Machine

/-- `TX_STATE`, 1 bit: `LOAD` 0, `EMIT` 1 (R18). -/
inductive TxState
  | load
  | emit
  deriving DecidableEq, Repr

/-- `RX_STATE`, 2 bits: `RECV` 0, `DONE` 1, `ERR` 2; 3 never occurs (R25, 93 U4, log 12). -/
inductive RxState
  | recv
  | done
  | err
  deriving DecidableEq, Repr

/-- `RX_ERR`, 2 bits: `NONE` 0, `CHECKSUM` 1, `FRAMING` 2; 3 never occurs (R26, 93 U4, log 12). -/
inductive RxErr
  | none
  | checksum
  | framing
  deriving DecidableEq, Repr

/-- The status of a response (R67); no other code is ever produced. -/
inductive Status
  | ok
  | illegalOp
  | badOperand
  | badState
  | full
  deriving DecidableEq, Repr

/-- The two address spaces of the block (R40). -/
inductive Space
  | txBuf
  | rxBuf
  deriving DecidableEq, Repr

/-- Buffer memory of one space: the bytes written so far, by index (R41, R43). The canonical form is
`Memory.wf` of Machine/Ops.lean (log 13); an index that is not listed has no value (R53, log 6). -/
abbrev Memory := List Host.Cell

/-- The TX unit (R16 to R21). -/
structure TxUnit where
  /-- `TX_SRC` (R16). -/
  src : Byte
  /-- `TX_DST` (R16). -/
  dst : Byte
  /-- `TX_CMD` (R16). -/
  cmd : Byte
  /-- `TX_ARG` (R16). -/
  arg : Half
  /-- `TX_LEN` (R17). -/
  len : Byte
  /-- `TX_STATE` (R18). -/
  state : TxState
  /-- `TX_POS` (R19). -/
  pos : Pos
  /-- `TX_ACC` (R20). -/
  acc : Half
  /-- `TX_BUF` (R21, R41). -/
  buf : Memory
  deriving DecidableEq, Repr

/-- The RX unit (R23 to R30). `RX_CNT` is no register (R31): see `RxUnit.cnt`. -/
structure RxUnit where
  /-- `RX_SRC` (R23). -/
  src : Byte
  /-- `RX_DST` (R23). -/
  dst : Byte
  /-- `RX_CMD` (R23). -/
  cmd : Byte
  /-- `RX_ARG` (R23). -/
  arg : Half
  /-- `RX_LEN` (R24). -/
  len : Byte
  /-- `RX_STATE` (R25). -/
  state : RxState
  /-- `RX_ERR` (R26). -/
  err : RxErr
  /-- `RX_POS` (R27). -/
  pos : Pos
  /-- `RX_ACC` (R28). -/
  acc : Half
  /-- `RX_CK` (R29). -/
  ck : Half
  /-- `RX_BUF` (R30, R43). -/
  buf : Memory
  deriving DecidableEq, Repr

/-- What the host can do to the block at its next turn: issue a command word (R9, R62) or assert the reset input,
which acts between two operations (R175, R177, log 4). -/
inductive PortEvent
  | command (w : CmdWord)
  | reset
  deriving DecidableEq, Repr

/-- The machine. `cfg`, `pending` and `responses` are the model's own fields (logs 5, 1 and 3): the spec says that
parameters, command words and response words are not state (R39). -/
structure State where
  /-- The instance's parameters (R4); no step changes them. -/
  cfg : Config
  /-- `CS_ACC` (R15). -/
  csAcc : Half
  /-- The framer. -/
  tx : TxUnit
  /-- The deframer. -/
  rx : RxUnit
  /-- What the host will do next, oldest first (R47). -/
  pending : List PortEvent
  /-- The response words produced so far, oldest first (R66). -/
  responses : List RspWord
  deriving DecidableEq, Repr

/-- Why a step can stop. The spec has no fault (93, introduction); both reasons arise only in states that no run
from reset reaches. -/
inductive Fault
  /-- Raised by `TX_POP` and `RX_RDBUF` when they would read a buffer byte that nothing has written, which has no
  specified value (R53, log 6). Unreachable by R37 (h). Safe: the model stops where the hardware would go on with
  some byte. -/
  | unwrittenByte (space : Space) (index : Byte)
  /-- Raised by `RX_PUSH` in `RECV` at a frame position past the end of the frame, for which R129 has no row
  (log 7). Unreachable by R37 (g). Safe: the model stops where the hardware would go on. -/
  | positionPastFrame (position : Pos)
  deriving DecidableEq, Repr

/-- Why a step can be refused by the MODEL. (The block's own refusals of R10 are responses, not this.) -/
inductive Refusal
  /-- Raised by an arm of `exec` for an instruction that has no meaning yet; no arm raises it. Safe. -/
  | notModelled (mnemonic : String)
  deriving DecidableEq, Repr

/-- The TX registers at reset (R38) beside given buffer contents, which reset does not write (R176). -/
def TxUnit.atReset (buf : Memory) : TxUnit :=
  { src := 0, dst := 0, cmd := 0, arg := 0, len := 0, state := .load, pos := 0, acc := 0, buf := buf }

/-- The RX registers at reset (R38) beside given buffer contents, which reset does not write (R176). -/
def RxUnit.atReset (buf : Memory) : RxUnit :=
  { src := 0, dst := 0, cmd := 0, arg := 0, len := 0, state := .recv, err := .none, pos := 0, acc := 0, ck := 0,
    buf := buf }

/-- An instance with the given parameters right after power-up: every register at its reset value, no buffer byte
written (R38, R175, R176), nothing issued and nothing answered. -/
def State.powerUp (c : Config) : State :=
  { cfg := c, csAcc := 0, tx := TxUnit.atReset [], rx := RxUnit.atReset [], pending := [], responses := [] }

/-- The default instance (R4) right after reset (R38). -/
def State.reset : State := State.powerUp {}

end Sys2Proof.Machine
end

