-- ==== Sys2Proof/Machine/Flags.lean ====
section
/-!
DEFINITION. Codes and status words (10_state.md R18, R25, R26, R33 to R35; 30_encoding.md R66, R67) and the
arithmetic of the checksum accumulators (40_checksum.md R81, R82). The block has no arithmetic flags (R32); its
status flags are `TX_STATE`, `RX_STATE` and `RX_ERR`.
-/

namespace Sys2Proof

/-- `ARG_BYTES` as the CFG word shows it, 2 bits (R35). -/
def ArgBytes.code : ArgBytes → BitVec 2
  | .one => 1
  | .two => 2

end Sys2Proof

namespace Sys2Proof.Machine

/-- `TX_STATE` as the TX status word shows it, 2 bits (R18, R33). -/
def TxState.code : TxState → BitVec 2
  | .load => 0
  | .emit => 1

/-- `RX_STATE`, 2 bits (R25, R34). -/
def RxState.code : RxState → BitVec 2
  | .recv => 0
  | .done => 1
  | .err => 2

/-- `RX_ERR`, 2 bits (R26, R34). -/
def RxErr.code : RxErr → BitVec 2
  | .none => 0
  | .checksum => 1
  | .framing => 2

/-- The status byte of a response (R67). -/
def Status.code : Status → Byte
  | .ok => 0x00
  | .illegalOp => 0x01
  | .badOperand => 0x02
  | .badState => 0x03
  | .full => 0x04

/-- The response word: `status` in bits 23:16, `data` in bits 15:0 (R66). -/
def rspWord (st : Status) (data : Half) : RspWord := st.code ++ data

/-- The TX status word: state, five zero bits, position (R33). -/
def txStatusWord (t : TxUnit) : Half := t.state.code ++ 0#5 ++ t.pos

/-- The RX status word: state, error, three zero bits, position (R34). -/
def rxStatusWord (r : RxUnit) : Half := r.state.code ++ r.err.code ++ 0#3 ++ r.pos

/-- The CFG word: `PAYLOAD_MAX`, six zero bits, `ARG_BYTES` (R35). -/
def cfgWord (c : Config) : Half := c.payloadMax ++ 0#6 ++ c.argBytes.code

/-- One byte added to a running sum: unsigned, modulo 2^16, the carry out of bit 15 lost (R81 (a), (b), R82). -/
def accAdd (acc : Half) (b : Byte) : Half := acc + b.zeroExtend 16

/-- The checksum that belongs to a running sum: the complement of all 16 bits (R81 (c), R82). -/
def accChecksum (acc : Half) : Half := acc ^^^ 0xFFFF

end Sys2Proof.Machine
end

