-- ==== Sys2Proof/Machine/Ops.lean ====
section
/-!
DEFINITION. The shared operations over State: buffer memory (20_memory.md R42, R53), completing an operation with a
response (00_scope.md R9), refusing one (R10), raising a frame error and returning from it (60_exceptions.md R151,
R152, R161), reset (70_reset_and_hazards.md R175, R176), and the host's side of the command port.
-/

namespace Sys2Proof.Machine

/-- What a meaning answers. -/
abbrev Result := Host.Outcome State Fault Refusal

/-! ### Buffer memory -/

/-- The byte held at an index, none when nothing has written it (R42, R53). -/
def Memory.readAt : Memory → Nat → Option Byte
  | [], _ => none
  | (k, v) :: m, i => if i = k then some v else Memory.readAt m i

/-- The memory with one byte replaced, kept in rising order of index (R42). -/
def Memory.writeAt : Memory → Nat → Byte → Memory
  | [], i, b => [(i, b)]
  | (k, v) :: m, i, b =>
    if i < k then (i, b) :: (k, v) :: m
    else if i = k then (i, b) :: m
    else (k, v) :: Memory.writeAt m i b

/-- `MemRead(S:i, 1)` (R42): indices are 8 bits, so every index is one of the 256 locations (R41, R43, R45). -/
def Memory.read (m : Memory) (i : Byte) : Option Byte := m.readAt i.toNat

/-- `MemWrite(S:i, 1, b)` (R42). -/
def Memory.write (m : Memory) (i : Byte) (b : Byte) : Memory := m.writeAt i.toNat b

/-- The canonical form: indices strictly rising, all of them locations of the space (R41, R43). No entry can equal
what an unlisted index reads as, because an unlisted index has no value. -/
abbrev Memory.wf (m : Memory) : Prop :=
  m.Pairwise (fun a b => a.1 < b.1) ∧ ∀ c ∈ m, c.1 < 256

/-- `S[0 .. n)`: the bytes at the first `n` indices, in order (R7). -/
def Memory.slice (m : Memory) (n : Nat) : List Byte := (List.range n).filterMap (fun i => m.readAt i)

/-- Every index below `n` has been written (R37 (h)). -/
abbrev Memory.filled (m : Memory) (n : Nat) : Prop := ∀ i < n, (m.readAt i).isSome

/-! ### Responses and refusals -/

/-- The state after one more response word (R66). -/
def State.respond (s : State) (st : Status) (data : Half) : State :=
  { s with responses := s.responses ++ [rspWord st data] }

/-- `return v`: the operation completes with status `OK` and its result (R9). -/
def complete (data : Half) (s : State) : Result := .next (s.respond .ok data)

/-- `refuse S`: the operation completes with status `S`, data 0, and nothing else changes (R10). -/
def refuse (st : Status) (s : State) : Result := .next (s.respond st 0)

/-! ### Frame errors and the way back -/

/-- `raise ChecksumError`, `raise FramingError`: the RX unit enters `ERR` with the error's code (R10, R151, R152);
nothing is saved and control goes nowhere (R160). -/
def RxUnit.raise (r : RxUnit) (e : RxErr) : RxUnit := { r with state := .err, err := e }

/-- The return from a frame error, and the reset of the unit's registers: every register at its reset value, the
buffer untouched (R115, R161, R53). -/
def RxUnit.rearm (r : RxUnit) : RxUnit := RxUnit.atReset r.buf

/-- Every TX register at its reset value, the buffer untouched (R93, R53). -/
def TxUnit.clear (t : TxUnit) : TxUnit := TxUnit.atReset t.buf

/-- The reset input: every register at its reset value; buffers and parameters are not changed (R175, R176). No
response belongs to it (R177). -/
def State.applyReset (s : State) : State :=
  { s with csAcc := 0, tx := s.tx.clear, rx := s.rx.rearm }

/-! ### The command port -/

/-- The oldest thing the host has pending, and the state without it (R47, log 1). -/
def State.take (s : State) : Option (PortEvent × State) :=
  match s.pending with
  | [] => none
  | e :: rest => some (e, { s with pending := rest })

/-- The state with a command word put in front of everything pending (log 1). -/
def State.issueFirst (s : State) (w : CmdWord) : State :=
  { s with pending := .command w :: s.pending }

end Sys2Proof.Machine
end

