-- ==== Sys2Proof/Machine/Operands.lean ====
section
/-!
DEFINITION. Derived constants of an instance (00_scope.md R5), how bytes form 16-bit values (20_memory.md R44), and
what a frame position means to each unit: `TxByte` (41_framer_tx.md R106), `RxPhase` (42_deframer_rx.md R129) and
`RX_CNT` (10_state.md R31).
-/

namespace Sys2Proof

/-- `A` as a number (R4). -/
def ArgBytes.toNat : ArgBytes → Nat
  | .one => 1
  | .two => 2

/-- `H = 4 + A`, the number of bytes before the payload (R5). -/
def Config.headerLen (c : Config) : Nat := 4 + c.argBytes.toNat

/-- `C = H + N`, the number of content bytes of a frame with `n` payload bytes (R5). -/
def Config.contentLen (c : Config) (n : Nat) : Nat := c.headerLen + n

/-- `L = H + N + 2`, the length of a frame with `n` payload bytes (R5). -/
def Config.frameLen (c : Config) (n : Nat) : Nat := c.headerLen + n + 2

/-- `argument < 2^(8*A)` (R11, R97). -/
def ArgBytes.fits : ArgBytes → Half → Bool
  | .one, x => x.extractLsb' 8 8 == 0
  | .two, _ => true

end Sys2Proof

namespace Sys2Proof.Machine

/-- `v[7:0]`. -/
def lowByte (v : Half) : Byte := v.extractLsb' 0 8

/-- `v[15:8]`. -/
def highByte (v : Half) : Byte := v.extractLsb' 8 8

/-- `zext_16` of a byte (R6, R54, R64). -/
def zext (b : Byte) : Half := b.zeroExtend 16

/-- `{hi, lo}` (R6). -/
def joinBytes (hi lo : Byte) : Half := hi ++ lo

/-- `q - H` as a buffer index, for a payload position `q` (R54). -/
def bufIndex (c : Config) (q : Nat) : Byte := BitVec.ofNat 8 (q - c.headerLen)

/-- `TxByte(q)`, the content byte at frame position `q` of the frame the TX unit holds (R106). None where `q` is no
content position, and where the buffer byte has never been written (log 6). -/
def txByte (c : Config) (t : TxUnit) (q : Nat) : Option Byte :=
  if q = 0 then some t.src
  else if q = 1 then some t.dst
  else if q = 2 then some t.cmd
  else if q = 3 then some (lowByte t.arg)
  else if q = 4 ∧ c.argBytes = .two then some (highByte t.arg)
  else if q = 3 + c.argBytes.toNat then some t.len
  else if q < c.contentLen t.len.toNat then t.buf.read (bufIndex c q)
  else none

/-- The role of a received byte (R129). -/
inductive RxPhase
  | src
  | dst
  | cmd
  | arg0
  | arg1
  | len
  | payload
  | ck0
  | ck1
  deriving DecidableEq, Repr

/-- `RxPhase(q)` for the `RX_LEN` known at that time; none past the end of the frame (R129, log 7). -/
def rxPhase (c : Config) (rxLen : Byte) (q : Nat) : Option RxPhase :=
  if q = 0 then some .src
  else if q = 1 then some .dst
  else if q = 2 then some .cmd
  else if q = 3 then some .arg0
  else if q = 4 ∧ c.argBytes = .two then some .arg1
  else if q = 3 + c.argBytes.toNat then some .len
  else if q < c.contentLen rxLen.toNat then some .payload
  else if q = c.contentLen rxLen.toNat then some .ck0
  else if q = c.contentLen rxLen.toNat + 1 then some .ck1
  else none

/-- `RX_CNT = min(max(RX_POS - H, 0), RX_LEN)` (R31). -/
def RxUnit.cnt (c : Config) (r : RxUnit) : Nat := min (r.pos.toNat - c.headerLen) r.len.toNat

/-- The check of the TX operations that change the Packet: they are refused with `BAD_STATE` in `EMIT`, before
their operand is looked at (R68, R103). -/
def whileLoading (s : State) (r : Result) : Result :=
  match s.tx.state with
  | .load => r
  | .emit => refuse .badState s

end Sys2Proof.Machine
end

