-- ==== Sys2Proof/Machine/Checksum.lean ====
section
/-!
DEFINITION. The CS family (40_checksum.md section 2): the stand-alone checksum unit, one register, `CS_ACC` (R15).
-/

namespace Sys2Proof.Machine

/-- `CS_CLR` (R83). -/
def execCsClr (s : State) : Result := complete 0 { s with csAcc := 0 }

/-- `CS_ADD imm8` (R84). -/
def execCsAdd (imm8 : Byte) (s : State) : Result := complete 0 { s with csAcc := accAdd s.csAcc imm8 }

/-- `CS_GET` (R85). -/
def execCsGet (s : State) : Result := complete (accChecksum s.csAcc) s

end Sys2Proof.Machine
end

