-- ==== Sys2Proof/Machine/Deframer.lean ====
section
/-!
DEFINITION. The RX family (42_deframer_rx.md section 2): taking a frame byte by byte, and reading what was received.
State machine: 70_reset_and_hazards.md R181.
-/

namespace Sys2Proof.Machine

/-- `RX_CLR` (R115): allowed in every state; the buffer is not written. -/
def execRxClr (s : State) : Result := complete 0 { s with rx := s.rx.rearm }

/-- A content byte added to the unit's running sum (R116, R129). -/
def RxUnit.sum (r : RxUnit) (b : Byte) : RxUnit := { r with acc := accAdd r.acc b }

/-- What the byte `b` does to the RX registers in each phase, the position apart (R116, R129). -/
def RxUnit.accept (c : Config) (ph : RxPhase) (b : Byte) (r : RxUnit) : RxUnit :=
  match ph with
  | .src => { r with src := b }.sum b
  | .dst => { r with dst := b }.sum b
  | .cmd => { r with cmd := b }.sum b
  | .arg0 => { r with arg := zext b }.sum b
  | .arg1 => { r with arg := joinBytes b (lowByte r.arg) }.sum b
  | .len => if c.payloadMax < b then ({ r with len := b }.sum b).raise .framing else { r with len := b }.sum b
  | .payload => { r with buf := r.buf.write (bufIndex c r.pos.toNat) b }.sum b
  | .ck0 => { r with ck := zext b }
  | .ck1 =>
    if joinBytes b (lowByte r.ck) = accChecksum r.acc then { r with ck := joinBytes b (lowByte r.ck), state := .done }
    else { r with ck := joinBytes b (lowByte r.ck) }.raise .checksum

/-- The RX unit after the byte `b` in phase `ph`: the position advances by one in every phase (R116, R27). -/
def RxUnit.push (c : Config) (ph : RxPhase) (b : Byte) (r : RxUnit) : RxUnit :=
  { RxUnit.accept c ph b r with pos := r.pos + 1 }

/-- `RX_PUSH imm8` (R116): the result is the status word after the byte. A frame error is recorded and the operation
completes with `OK`; a byte given in `DONE` or `ERR` is refused. -/
def execRxPush (imm8 : Byte) (s : State) : Result :=
  match s.rx.state with
  | .recv =>
    match rxPhase s.cfg s.rx.len s.rx.pos.toNat with
    | some ph => complete (rxStatusWord (s.rx.push s.cfg ph imm8)) { s with rx := s.rx.push s.cfg ph imm8 }
    | none => .fault (.positionPastFrame s.rx.pos)
  | .done => refuse .badState s
  | .err => refuse .badState s

/-- The RX unit when the host says that no more bytes will come: a truncated frame is a framing error, a finished
one stays as it is (R117). -/
def RxUnit.finish (r : RxUnit) : RxUnit :=
  match r.state with
  | .recv => r.raise .framing
  | .done => r
  | .err => r

/-- `RX_END` (R117). -/
def execRxEnd (s : State) : Result := complete (rxStatusWord s.rx.finish) { s with rx := s.rx.finish }

/-- `RX_STAT` (R118). -/
def execRxStat (s : State) : Result := complete (rxStatusWord s.rx) s

/-- `RX_GETSRC` (R119). -/
def execRxGetSrc (s : State) : Result := complete (zext s.rx.src) s

/-- `RX_GETDST` (R120). -/
def execRxGetDst (s : State) : Result := complete (zext s.rx.dst) s

/-- `RX_GETCMD` (R121). -/
def execRxGetCmd (s : State) : Result := complete (zext s.rx.cmd) s

/-- `RX_GETARG` (R122). -/
def execRxGetArg (s : State) : Result := complete s.rx.arg s

/-- `RX_GETLEN` (R123). -/
def execRxGetLen (s : State) : Result := complete (zext s.rx.len) s

/-- `RX_RDBUF imm8` (R124): an index at or past `RX_CNT` is refused. -/
def execRxRdBuf (imm8 : Byte) (s : State) : Result :=
  if s.rx.cnt s.cfg ≤ imm8.toNat then refuse .badOperand s
  else
    match s.rx.buf.read imm8 with
    | some b => complete (zext b) s
    | none => .fault (.unwrittenByte .rxBuf imm8)

/-- `RX_GETCK` (R125). -/
def execRxGetCk (s : State) : Result := complete s.rx.ck s

/-- `RX_GETCALC` (R126). -/
def execRxGetCalc (s : State) : Result := complete (accChecksum s.rx.acc) s

end Sys2Proof.Machine
end

