-- ==== Sys2Proof/Machine/Framer.lean ====
section
/-!
DEFINITION. The TX family (41_framer_tx.md section 2): loading a Packet and emitting its frame byte by byte. State
machine: 70_reset_and_hazards.md R180.
-/

namespace Sys2Proof.Machine

/-- `TX_CLR` (R93): allowed in every state; the buffer is not written. -/
def execTxClr (s : State) : Result := complete 0 { s with tx := s.tx.clear }

/-- `TX_SETSRC imm8` (R94). -/
def execTxSetSrc (imm8 : Byte) (s : State) : Result :=
  whileLoading s (complete 0 { s with tx := { s.tx with src := imm8 } })

/-- `TX_SETDST imm8` (R95). -/
def execTxSetDst (imm8 : Byte) (s : State) : Result :=
  whileLoading s (complete 0 { s with tx := { s.tx with dst := imm8 } })

/-- `TX_SETCMD imm8` (R96). -/
def execTxSetCmd (imm8 : Byte) (s : State) : Result :=
  whileLoading s (complete 0 { s with tx := { s.tx with cmd := imm8 } })

/-- `TX_SETARG imm16` (R97): the state is checked before the operand; a value that does not fit is refused, never
truncated. -/
def execTxSetArg (imm16 : Half) (s : State) : Result :=
  whileLoading s
    (if s.cfg.argBytes.fits imm16 then complete 0 { s with tx := { s.tx with arg := imm16 } }
     else refuse .badOperand s)

/-- `TX_PUSH imm8` (R98): the byte goes to `TX_BUF:TX_LEN`; the result is the new `TX_LEN`. The test is the spec's
own equality (log 9). -/
def execTxPush (imm8 : Byte) (s : State) : Result :=
  whileLoading s
    (if s.tx.len = s.cfg.payloadMax then refuse .full s
     else
       complete (zext (s.tx.len + 1))
         { s with tx := { s.tx with buf := s.tx.buf.write s.tx.len imm8, len := s.tx.len + 1 } })

/-- `TX_START` (R99). -/
def execTxStart (s : State) : Result :=
  whileLoading s (complete 0 { s with tx := { s.tx with state := .emit, pos := 0, acc := 0 } })

/-- `TX_POP` at a content position: the byte is delivered and added to the sum (R100, first branch). -/
def popContent (s : State) : Result :=
  match txByte s.cfg s.tx s.tx.pos.toNat with
  | some b => complete (zext b) { s with tx := { s.tx with acc := accAdd s.tx.acc b, pos := s.tx.pos + 1 } }
  | none => .fault (.unwrittenByte .txBuf (bufIndex s.cfg s.tx.pos.toNat))

/-- `TX_POP` at the position of the low checksum byte (R100, second branch). -/
def popChecksumLow (s : State) : Result :=
  complete (zext (lowByte (accChecksum s.tx.acc))) { s with tx := { s.tx with pos := s.tx.pos + 1 } }

/-- `TX_POP` at the position of the high checksum byte, the last of the frame: `LAST` is bit 8 of the result and
the unit is back in `LOAD` with the Packet still loaded (R100, last branch, R104). -/
def popLast (s : State) : Result :=
  complete (joinBytes 1 (highByte (accChecksum s.tx.acc))) { s with tx := { s.tx with state := .load, pos := 0 } }

/-- `TX_POP` (R100); the last branch is the spec's `else` (log 8). -/
def execTxPop (s : State) : Result :=
  match s.tx.state with
  | .load => refuse .badState s
  | .emit =>
    if s.tx.pos.toNat < s.cfg.contentLen s.tx.len.toNat then popContent s
    else if s.tx.pos.toNat = s.cfg.contentLen s.tx.len.toNat then popChecksumLow s
    else popLast s

/-- `TX_STAT` (R101). -/
def execTxStat (s : State) : Result := complete (txStatusWord s.tx) s

/-- `TX_GETLEN` (R102). -/
def execTxGetLen (s : State) : Result := complete (zext s.tx.len) s

end Sys2Proof.Machine
end

