-- ==== Sys2Proof/Machine/Codec.lean ====
section
/-!
DEFINITION. The pure functions of the source that the units realise (00_scope.md R12): `Checksum16` (R80), `Encode`
(R90), `Decode` (R110), the Packet and its well-formedness (R11), and the device addresses (R140, R141). Where a unit
rule and a function rule were ever found to disagree, the function rule wins (R12).
-/

namespace Sys2Proof

/-- A Packet: five independent fields (R11, 90 C6). -/
structure Packet where
  source : Byte
  destination : Byte
  command : Byte
  argument : Half
  payload : List Byte
  deriving DecidableEq, Repr

/-- Well-formed for an instance: the argument fits its wire field and the payload fits the instance (R11). -/
def Packet.wellFormed (c : Config) (p : Packet) : Bool :=
  c.argBytes.fits p.argument && decide (p.payload.length ≤ c.payloadMax.toNat)

/-- The two errors of `Decode` (R110). -/
inductive FrameError
  | checksum
  | framing
  deriving DecidableEq, Repr

end Sys2Proof

namespace Sys2Proof.Machine

/-- `sum(d)`, unbounded (R7). -/
def byteSum (d : List Byte) : Nat := (d.map BitVec.toNat).sum

/-- `Checksum16(d) = (sum(d) mod 65536) XOR 0xFFFF` (R80). -/
def checksum16 (d : List Byte) : Half := BitVec.ofNat 16 (byteSum d % 65536) ^^^ 0xFFFF

/-- The `argument` bytes on the wire, low byte first (R57). -/
def argumentBytes (a : ArgBytes) (x : Half) : List Byte :=
  match a with
  | .one => [lowByte x]
  | .two => [lowByte x, highByte x]

/-- The content of a frame: header, `payload_len`, payload (R56, R90). -/
def contentBytes (c : Config) (p : Packet) : List Byte :=
  [p.source, p.destination, p.command] ++ argumentBytes c.argBytes p.argument
    ++ [BitVec.ofNat 8 p.payload.length] ++ p.payload

/-- `Encode(p)`: the content and its checksum, low byte first; not defined for a Packet that is not well-formed
(R90). -/
def encodeFrame (c : Config) (p : Packet) : Option (List Byte) :=
  if p.wellFormed c then
    let ck := checksum16 (contentBytes c p)
    some (contentBytes c p ++ [lowByte ck, highByte ck])
  else none

/-- The byte at an offset that is known to lie inside the sequence. -/
def byteAt (b : List Byte) (i : Nat) : Byte := b.getD i 0

/-- `Decode(b)`: structure before checksum, low byte first, bytes past the frame ignored (R110, R111, R113). -/
def decodeFrame (c : Config) (b : List Byte) : Except FrameError Packet :=
  if b.length < c.headerLen then .error .framing
  else
    let n := byteAt b (c.headerLen - 1)
    if c.payloadMax < n then .error .framing
    else if b.length < c.frameLen n.toNat then .error .framing
    else
      let content := c.contentLen n.toNat
      if checksum16 (b.take content) ≠ joinBytes (byteAt b (content + 1)) (byteAt b content) then .error .checksum
      else
        .ok {
          source := byteAt b 0
          destination := byteAt b 1
          command := byteAt b 2
          argument := match c.argBytes with
            | .one => zext (byteAt b 3)
            | .two => joinBytes (byteAt b 4) (byteAt b 3)
          payload := (b.take content).drop c.headerLen }

/-- The Packet the TX unit holds (R107). -/
def TxUnit.packet (t : TxUnit) : Packet :=
  { source := t.src, destination := t.dst, command := t.cmd, argument := t.arg, payload := t.buf.slice t.len.toNat }

/-- What the RX registers hold, which is a Packet only in `DONE` (R127). -/
def RxUnit.packet (r : RxUnit) : Packet :=
  { source := r.src, destination := r.dst, command := r.cmd, argument := r.arg, payload := r.buf.slice r.len.toNat }

/-- The six named device addresses (R140). -/
inductive DeviceName
  | motor
  | esc
  | ble
  | bms
  | extbms
  | host
  deriving DecidableEq, Repr

/-- The byte value of a named address; `HOST` is 0x3D (R140, 90 C1). -/
def DeviceName.address : DeviceName → Byte
  | .motor => 0x01
  | .esc => 0x20
  | .ble => 0x21
  | .bms => 0x22
  | .extbms => 0x23
  | .host => 0x3D

/-- The class code of a named address (R140, R141). -/
def DeviceName.classCode : DeviceName → Byte
  | .motor => 1
  | .esc => 2
  | .ble => 3
  | .bms => 4
  | .extbms => 5
  | .host => 6

/-- The name of an address byte, if it has one (R140). -/
def deviceName (a : Byte) : Option DeviceName :=
  [DeviceName.motor, .esc, .ble, .bms, .extbms, .host].find? (fun n => n.address == a)

/-- `AddrClass(a)`: the class code of a named address, 0 for every other byte (R141). -/
def addrClass (a : Byte) : Byte :=
  match deviceName a with
  | some n => n.classCode
  | none => 0

end Sys2Proof.Machine
end

