-- ==== Sys2Proof/Machine/System.lean ====
section
/-!
DEFINITION. The system family (43_system.md section 2). Neither operation reads or writes a register (R142, R143).
-/

namespace Sys2Proof.Machine

/-- `ADDR_CLS imm8` (R142). -/
def execAddrCls (imm8 : Byte) (s : State) : Result := complete (zext (addrClass imm8)) s

/-- `CFG_GET` (R143). -/
def execCfgGet (s : State) : Result := complete (cfgWord s.cfg) s

end Sys2Proof.Machine
end

