-- ==== Sys2Proof/Machine/Dispatch.lean ====
section
/-!
DEFINITION. exec: one arm per constructor of Instr, each one direct call of that operation's meaning.
-/

namespace Sys2Proof.Machine

def exec (i : Instr) (s : State) : Host.Outcome State Fault Refusal :=
  match i with
  | .csClr => Sys2Proof.Machine.execCsClr s
  | .csAdd imm8 => Sys2Proof.Machine.execCsAdd imm8 s
  | .csGet => Sys2Proof.Machine.execCsGet s
  | .txClr => Sys2Proof.Machine.execTxClr s
  | .txSetSrc imm8 => Sys2Proof.Machine.execTxSetSrc imm8 s
  | .txSetDst imm8 => Sys2Proof.Machine.execTxSetDst imm8 s
  | .txSetCmd imm8 => Sys2Proof.Machine.execTxSetCmd imm8 s
  | .txSetArg imm16 => Sys2Proof.Machine.execTxSetArg imm16 s
  | .txPush imm8 => Sys2Proof.Machine.execTxPush imm8 s
  | .txStart => Sys2Proof.Machine.execTxStart s
  | .txPop => Sys2Proof.Machine.execTxPop s
  | .txStat => Sys2Proof.Machine.execTxStat s
  | .txGetLen => Sys2Proof.Machine.execTxGetLen s
  | .rxClr => Sys2Proof.Machine.execRxClr s
  | .rxPush imm8 => Sys2Proof.Machine.execRxPush imm8 s
  | .rxEnd => Sys2Proof.Machine.execRxEnd s
  | .rxStat => Sys2Proof.Machine.execRxStat s
  | .rxGetSrc => Sys2Proof.Machine.execRxGetSrc s
  | .rxGetDst => Sys2Proof.Machine.execRxGetDst s
  | .rxGetCmd => Sys2Proof.Machine.execRxGetCmd s
  | .rxGetArg => Sys2Proof.Machine.execRxGetArg s
  | .rxGetLen => Sys2Proof.Machine.execRxGetLen s
  | .rxRdBuf imm8 => Sys2Proof.Machine.execRxRdBuf imm8 s
  | .rxGetCk => Sys2Proof.Machine.execRxGetCk s
  | .rxGetCalc => Sys2Proof.Machine.execRxGetCalc s
  | .addrCls imm8 => Sys2Proof.Machine.execAddrCls imm8 s
  | .cfgGet => Sys2Proof.Machine.execCfgGet s

end Sys2Proof.Machine
end

