-- ==== Sys2Proof/Machine/Step.lean ====
section
/-!
DEFINITION. One step: the next thing the host has pending is performed, whole (00_scope.md R9, 20_memory.md R47). A
command word is decoded and its operation run, or it is refused as illegal (30_encoding.md R68); a reset puts the
registers at their reset values (70_reset_and_hazards.md R175). With nothing pending the block does nothing (log 2).
-/

namespace Sys2Proof.Machine

/-- One step of the block (logs 1 and 2). -/
def step (s : State) : Host.Outcome State Fault Refusal :=
  match s.take with
  | none => .next s
  | some (.reset, s1) => .next s1.applyReset
  | some (.command w, s1) =>
    match decode w with
    | .ok i => exec i s1
    | .error _ => refuse .illegalOp s1

/-- The state in which the host issues, next, the command word whose first `nbits` bits are those of `w` and whose
higher bits are 0 (log 1). -/
def State.withFetchWord (s : State) (nbits w : Nat) : State :=
  s.issueFirst (BitVec.ofNat 24 (w % 2 ^ nbits))

end Sys2Proof.Machine
end

