-- ==== Sys2Proof/Machine/Assembler.lean ====
section
/-!
DEFINITION. The textual conventions of the spec: mnemonics (30_encoding.md R65, R72), address names (R73, R141), the
line that writes an operation (R72, log 10), and the three pseudo-operations (R74), which expand to operations and
have no encoding of their own.
-/

namespace Sys2Proof

/-- The mnemonic of an operation (R65). -/
def Instr.mnemonic : Instr → String
  | .csClr => "CS_CLR"
  | .csAdd _ => "CS_ADD"
  | .csGet => "CS_GET"
  | .txClr => "TX_CLR"
  | .txSetSrc _ => "TX_SETSRC"
  | .txSetDst _ => "TX_SETDST"
  | .txSetCmd _ => "TX_SETCMD"
  | .txSetArg _ => "TX_SETARG"
  | .txPush _ => "TX_PUSH"
  | .txStart => "TX_START"
  | .txPop => "TX_POP"
  | .txStat => "TX_STAT"
  | .txGetLen => "TX_GETLEN"
  | .rxClr => "RX_CLR"
  | .rxPush _ => "RX_PUSH"
  | .rxEnd => "RX_END"
  | .rxStat => "RX_STAT"
  | .rxGetSrc => "RX_GETSRC"
  | .rxGetDst => "RX_GETDST"
  | .rxGetCmd => "RX_GETCMD"
  | .rxGetArg => "RX_GETARG"
  | .rxGetLen => "RX_GETLEN"
  | .rxRdBuf _ => "RX_RDBUF"
  | .rxGetCk => "RX_GETCK"
  | .rxGetCalc => "RX_GETCALC"
  | .addrCls _ => "ADDR_CLS"
  | .cfgGet => "CFG_GET"

end Sys2Proof

namespace Sys2Proof.Machine

/-- One hexadecimal digit, upper case (R73). -/
def hexDigit (n : Nat) : Char := if n < 10 then Char.ofNat (48 + n) else Char.ofNat (55 + n)

/-- A byte as two hexadecimal digits (R73). -/
def hexByte (b : Byte) : List Char := [hexDigit (b.toNat / 16), hexDigit (b.toNat % 16)]

/-- The name of a device address (R140). -/
def DeviceName.text : DeviceName → String
  | .motor => "MOTOR"
  | .esc => "ESC"
  | .ble => "BLE"
  | .bms => "BMS"
  | .extbms => "EXTBMS"
  | .host => "HOST"

/-- `AddrName(a)`: the name of a named address, two upper-case hexadecimal digits for every other (R141). -/
def addrName (a : Byte) : String :=
  match deviceName a with
  | some n => n.text
  | none => String.ofList (hexByte a)

/-- The operand of an operation as text: nothing for format Z, a hexadecimal number for formats B and H (R72; the
number of digits is log 10's). -/
def operandText (i : Instr) : List Char :=
  match i with
  | .csAdd b | .txSetSrc b | .txSetDst b | .txSetCmd b | .txPush b | .rxPush b | .rxRdBuf b | .addrCls b =>
    [' ', '0', 'x'] ++ hexByte b
  | .txSetArg x => [' ', '0', 'x'] ++ hexByte (highByte x) ++ hexByte (lowByte x)
  | .csClr | .csGet | .txClr | .txStart | .txPop | .txStat | .txGetLen | .rxClr | .rxEnd | .rxStat | .rxGetSrc
  | .rxGetDst | .rxGetCmd | .rxGetArg | .rxGetLen | .rxGetCk | .rxGetCalc | .cfgGet => []

/-- The line that writes an operation (R72). -/
def opText (i : Instr) : String := i.mnemonic ++ String.ofList (operandText i)

/-- `TX_LOAD p` (R74). -/
def txLoad (p : Packet) : List Instr :=
  [.txClr, .txSetSrc p.source, .txSetDst p.destination, .txSetCmd p.command, .txSetArg p.argument]
    ++ p.payload.map .txPush

/-- `TX_EMIT` for a frame of `frameLength` bytes: `TX_START`, then `TX_POP` until the last byte (R74). -/
def txEmit (frameLength : Nat) : List Instr := .txStart :: List.replicate frameLength .txPop

/-- `RX_FEED b` (R74); a `RX_PUSH` refused with `BAD_STATE` is continued past. -/
def rxFeed (b : List Byte) : List Instr := .rxClr :: b.map .rxPush ++ [.rxEnd]

/-- The operations as what the host has pending (log 1). -/
def commands (ops : List Instr) : List PortEvent := ops.map (fun i => .command (encode i))

end Sys2Proof.Machine
end

