-- ==== Sys2Proof/Safety.lean ====
section
/-!
DEFINITION. What a good state is: the invariants of 10_state.md R37 (with the bound of R24 and the canonical form of
the buffers), and what the RX registers say of the bytes received so far (R23, R24, R28, R29). A state that meets
them is one in which no step faults.
-/

namespace Sys2Proof.Machine

/-- 10_state.md R37 (a) to (h), with the last sentence of R24 and the canonical form of the buffers. -/
structure Inv (s : State) : Prop where
  /-- (a) -/
  tx_len : s.tx.len ≤ s.cfg.payloadMax
  /-- (b) -/
  tx_load : s.tx.state = .load → s.tx.pos = 0
  /-- (c), the position -/
  tx_emit_pos : s.tx.state = .emit → s.tx.pos.toNat ≤ s.cfg.contentLen s.tx.len.toNat + 1
  /-- (c), the sum -/
  tx_emit_acc : s.tx.state = .emit →
    s.tx.acc.toNat =
      byteSum ((contentBytes s.cfg s.tx.packet).take
        (min s.tx.pos.toNat (s.cfg.contentLen s.tx.len.toNat))) % 65536
  /-- (d), TX -/
  tx_arg : s.cfg.argBytes = .one → highByte s.tx.arg = 0
  /-- (d), RX -/
  rx_arg : s.cfg.argBytes = .one → highByte s.rx.arg = 0
  /-- (e) -/
  rx_err : s.rx.err ≠ .none ↔ s.rx.state = .err
  /-- (f) -/
  rx_done : s.rx.state = .done →
    s.rx.len ≤ s.cfg.payloadMax ∧ s.rx.pos.toNat = s.cfg.frameLen s.rx.len.toNat
      ∧ s.rx.ck = s.rx.acc ^^^ 0xFFFF
  /-- (g) -/
  rx_recv : s.rx.state = .recv → s.rx.pos.toNat ≤ s.cfg.contentLen s.rx.len.toNat + 1
  /-- (g), the remark on an incomplete header -/
  rx_header : s.rx.pos.toNat < s.cfg.headerLen → s.rx.len = 0
  /-- (h), TX -/
  tx_filled : s.tx.buf.filled s.tx.len.toNat
  /-- (h), RX -/
  rx_filled : s.rx.buf.filled (s.rx.cnt s.cfg)
  /-- R24: an oversize length is held only in the error it causes -/
  rx_oversize : s.cfg.payloadMax < s.rx.len →
    s.rx.state = .err ∧ s.rx.err = .framing ∧ s.rx.pos.toNat = s.cfg.headerLen
  /-- the canonical form of `TX_BUF` -/
  tx_wf : s.tx.buf.wf
  /-- the canonical form of `RX_BUF` -/
  rx_wf : s.rx.buf.wf

/-- The sum of the content bytes that the RX registers and buffer show (R28). -/
def RxUnit.contentSum (c : Config) (r : RxUnit) : Nat :=
  r.src.toNat + r.dst.toNat + r.cmd.toNat + (lowByte r.arg).toNat + (highByte r.arg).toNat + r.len.toNat
    + byteSum (r.buf.slice (r.cnt c))

/-- The RX registers tell what has been received: a register whose byte has not arrived is 0 (R24, R29, and the
corner cases of R119 to R123 and R125), and `RX_ACC` is the sum of the content bytes received (R28). -/
structure Received (s : State) : Prop where
  src : s.rx.pos.toNat ≤ 0 → s.rx.src = 0
  dst : s.rx.pos.toNat ≤ 1 → s.rx.dst = 0
  cmd : s.rx.pos.toNat ≤ 2 → s.rx.cmd = 0
  arg_low : s.rx.pos.toNat ≤ 3 → s.rx.arg = 0
  arg_high : s.rx.pos.toNat ≤ 4 → highByte s.rx.arg = 0
  len : s.rx.pos.toNat ≤ 3 + s.cfg.argBytes.toNat → s.rx.len = 0
  ck_low : s.rx.pos.toNat ≤ s.cfg.contentLen s.rx.len.toNat → s.rx.ck = 0
  ck_high : s.rx.pos.toNat ≤ s.cfg.contentLen s.rx.len.toNat + 1 → highByte s.rx.ck = 0
  acc : s.rx.acc.toNat = s.rx.contentSum s.cfg % 65536

/-- The unit an operation belongs to; the system operations belong to none (R13, R65). -/
inductive OpUnit
  | cs
  | tx
  | rx
  | system
  deriving DecidableEq, Repr

/-- The unit of each operation, which the high nibble of its opcode names (R65). -/
def opUnit : Instr → OpUnit
  | .csClr | .csAdd _ | .csGet => .cs
  | .txClr | .txSetSrc _ | .txSetDst _ | .txSetCmd _ | .txSetArg _ | .txPush _ | .txStart | .txPop | .txStat
  | .txGetLen => .tx
  | .rxClr | .rxPush _ | .rxEnd | .rxStat | .rxGetSrc | .rxGetDst | .rxGetCmd | .rxGetArg | .rxGetLen | .rxRdBuf _
  | .rxGetCk | .rxGetCalc => .rx
  | .addrCls _ | .cfgGet => .system

end Sys2Proof.Machine
end

