-- ==== Sys2Proof/Certificates/Slice0/Obligations.lean ====
section
/-!
DEFINITION. The statements for the provers. A statement about an operation gives its command words, its whole next
state (so its frame: every register, both buffers, the other units), its response and its refusals.
-/

open Sys2Proof Sys2Proof.Machine

namespace Sys2Proof.Certificates

/-- A format Z operation on the command port (30_encoding.md R63, R69): the word with opcode `op` and operand field 0
runs `i`; any other operand field is `ILLEGAL_OP` and changes nothing but the port. -/
def IssuesZ (op : Byte) (i : Instr) : Prop :=
  ∀ (s : State) (rest : List PortEvent) (x : Half),
    Sys2Proof.Machine.step { s with pending := .command (op ++ x) :: rest } =
      if x = 0 then Sys2Proof.Machine.exec i { s with pending := rest }
      else .next { s with pending := rest, responses := s.responses ++ [rspWord .illegalOp 0] }

/-- A format B operation on the command port (R63, R69): the operand is `cmd[7:0]`; a non-zero `cmd[15:8]` is
`ILLEGAL_OP` and changes nothing but the port. -/
def IssuesB (op : Byte) (f : Byte → Instr) : Prop :=
  ∀ (s : State) (rest : List PortEvent) (hi lo : Byte),
    Sys2Proof.Machine.step { s with pending := .command (op ++ (hi ++ lo : Half)) :: rest } =
      if hi = 0 then Sys2Proof.Machine.exec (f lo) { s with pending := rest }
      else .next { s with pending := rest, responses := s.responses ++ [rspWord .illegalOp 0] }

/-- A format H operation on the command port (R63): the operand is `cmd[15:0]`, never `ILLEGAL_OP`. -/
def IssuesH (op : Byte) (f : Half → Instr) : Prop :=
  ∀ (s : State) (rest : List PortEvent) (x : Half),
    Sys2Proof.Machine.step { s with pending := .command (op ++ x) :: rest } =
      Sys2Proof.Machine.exec (f x) { s with pending := rest }

/-- The block as reset leaves it, buffers apart (70_reset_and_hazards.md R175, R176). -/
structure AfterReset (s : State) : Prop where
  cs : s.csAcc = 0
  tx : s.tx = { src := 0, dst := 0, cmd := 0, arg := 0, len := 0, state := .load, pos := 0, acc := 0, buf := s.tx.buf }
  rx : s.rx = { src := 0, dst := 0, cmd := 0, arg := 0, len := 0, state := .recv, err := .none, pos := 0, acc := 0,
                ck := 0, buf := s.rx.buf }

/-- The bytes that a sequence of operations gives to `CS_ADD`, in order (R87). -/
def addedBytes (ops : List Instr) : List Byte :=
  ops.filterMap (fun i => match i with | .csAdd b => some b | _ => none)

/-- The responses of the `TX_POP`s that deliver a frame: one byte each, `LAST` only on the final one (R100, R107). -/
def popResponses (f : List Byte) : List RspWord :=
  f.mapIdx (fun i b => rspWord .ok (BitVec.ofNat 16 ((if i + 1 = f.length then 256 else 0) + b.toNat)))

/-- Two states that no operation may tell apart: equal but for buffer bytes at or past `TX_LEN` and `RX_CNT`
(20_memory.md R53). -/
structure SameVisible (s u : State) : Prop where
  cfg : s.cfg = u.cfg
  cs : s.csAcc = u.csAcc
  tx : s.tx = { u.tx with buf := s.tx.buf }
  rx : s.rx = { u.rx with buf := s.rx.buf }
  pending : s.pending = u.pending
  responses : s.responses = u.responses
  tx_buf : ∀ i < s.tx.len.toNat, s.tx.buf.readAt i = u.tx.buf.readAt i
  rx_buf : ∀ i < s.rx.cnt s.cfg, s.rx.buf.readAt i = u.rx.buf.readAt i

/-- `RX_STATE` as a number (10_state.md R25). -/
def rxStateNumber : RxState → Nat
  | .recv => 0
  | .done => 1
  | .err => 2

/-- `RX_ERR` as a number (R26). -/
def rxErrNumber : RxErr → Nat
  | .none => 0
  | .checksum => 1
  | .framing => 2

/-- The status codes as numbers (30_encoding.md R67). -/
def statusNumber : Status → Nat
  | .ok => 0
  | .illegalOp => 1
  | .badOperand => 2
  | .badState => 3
  | .full => 4

/-- The class code of a device address by cases (43_system.md R140, R141). -/
def classOf (a : Byte) : Nat :=
  if a = 0x01 then 1 else if a = 0x20 then 2 else if a = 0x21 then 3 else if a = 0x22 then 4
  else if a = 0x23 then 5 else if a = 0x3D then 6 else 0

/-- The number of bytes of `b` that belong to a frame: all of a short one, up to the length byte of an oversize one,
up to the checksum of a complete one (42_deframer_rx.md R136). -/
def acceptedLength (c : Config) (b : List Byte) : Nat :=
  if c.headerLen ≤ b.length ∧ byteAt b (c.headerLen - 1) ≤ c.payloadMax
  then min b.length (c.frameLen (byteAt b (c.headerLen - 1)).toNat)
  else min b.length c.headerLen

end Sys2Proof.Certificates

open Sys2Proof.Certificates

/-! ### Encoding -/

/-- Decode and encode agree for every operation with every operand (30_encoding.md R62, R63, R65). -/
def Obligations.EveryOperationDecodesFromItsWord : Prop :=
  ∀ i : Instr, i.wellFormed = true → decode (encode i) = .ok i

/-- The other direction: a legal word is the word of the operation it selects, so no two words select one operation
(R63: the must-be-zero bits are part of the match). -/
def Obligations.EveryLegalWordIsTheEncodingOfItsOperation : Prop :=
  ∀ (w : CmdWord) (i : Instr), decode w = .ok i → encode i = w

/-- R68 step (1): the decoder accepts a word exactly when a row of the table matches it, no word matches two rows,
and the row that matches is the row of the operation decoded. -/
def Obligations.DecoderFollowsTheOpcodeTable : Prop :=
  (∀ w : CmdWord, (∃ i, decode w = .ok i) ↔ ∃ r ∈ opcodeTable, r.accepts w = true) ∧
  (∀ (w : CmdWord) (i : Instr) (r : OpcodeRow), decode w = .ok i → r ∈ opcodeTable → r.accepts w = true →
    r.mnemonic = i.mnemonic) ∧
  opcodeTable.Pairwise (fun r q => ∀ w : CmdWord, ¬ (r.accepts w = true ∧ q.accepts w = true)) ∧
  opcodeTable.length = 27

/-- Words written out from R62, R63 and R65, one or more of each family, decode to the operation they stand for. -/
def Obligations.SampleWordsDecode : Prop :=
  decode 0b000100000000000000000000 = .ok .csClr ∧
  decode 0b000100010000000000111101 = .ok (.csAdd 0x3D) ∧
  decode 0b001001000001001000110100 = .ok (.txSetArg 0x1234) ∧
  decode 0b001001010000000010101010 = .ok (.txPush 0xAA) ∧
  decode 0b001001110000000000000000 = .ok .txPop ∧
  decode 0b001100010000000011111110 = .ok (.rxPush 0xFE) ∧
  decode 0b001110110000000000000000 = .ok .rxGetCalc ∧
  decode 0b010000000000000000111110 = .ok (.addrCls 0x3E) ∧
  decode 0b010000010000000000000000 = .ok .cfgGet

/-- R69: the decoder rejects exactly the three kinds of illegal word, the step refuses them with `ILLEGAL_OP` and
changes nothing, and the rule's own examples are among them. -/
def Obligations.IllegalWordsAreRefusedAndChangeNothing : Prop :=
  (∀ w : CmdWord,
    (∃ e, decode w = .error e) ↔
      (opcodeField w ∉ [0x10, 0x11, 0x12, 0x20, 0x21, 0x22, 0x23, 0x24, 0x25, 0x26, 0x27, 0x28, 0x29, 0x30, 0x31,
          0x32, 0x33, 0x34, 0x35, 0x36, 0x37, 0x38, 0x39, 0x3A, 0x3B, 0x40, 0x41]) ∨
      (opcodeField w ∈ [0x10, 0x12, 0x20, 0x26, 0x27, 0x28, 0x29, 0x30, 0x32, 0x33, 0x34, 0x35, 0x36, 0x37, 0x38,
          0x3A, 0x3B, 0x41] ∧ operandField w ≠ 0) ∨
      (opcodeField w ∈ [0x11, 0x21, 0x22, 0x23, 0x25, 0x31, 0x39, 0x40] ∧ highByte (operandField w) ≠ 0)) ∧
  (∀ (w : CmdWord) (s : State) (rest : List PortEvent), (∃ e, decode w = .error e) →
    Sys2Proof.Machine.step { s with pending := .command w :: rest } =
      .next { s with pending := rest, responses := s.responses ++ [rspWord .illegalOp 0] }) ∧
  (∀ w ∈ ([0x000000, 0x130000, 0x2A0000, 0x3C0000, 0x420000, 0xFFFFFF, 0x100001, 0x270100, 0x110100,
      0x31FFFF] : List CmdWord), ∃ e, decode w = .error e)

/-! ### The step -/

/-- A step runs the decoded operation: the oldest pending word is taken off the port and `exec` runs on the rest. -/
def Obligations.StepRunsTheDecodedOperation : Prop :=
  ∀ (s : State) (w : CmdWord) (rest : List PortEvent) (i : Instr),
    s.pending = .command w :: rest → decode w = .ok i → i.wellFormed = true →
      Sys2Proof.Machine.step s = Sys2Proof.Machine.exec i { s with pending := rest }

/-- The model's choice (log 2): with nothing pending a step changes nothing. -/
def Obligations.StepWithNothingPendingChangesNothing : Prop :=
  ∀ s : State, s.pending = [] → Sys2Proof.Machine.step s = .next s

/-- R66, R67: the response word has the status byte in bits 23:16 and the data in bits 15:0. -/
def Obligations.ResponseWordLayout : Prop :=
  ∀ (st : Status) (d : Half),
    (rspWord st d).toNat = 65536 * statusNumber st + d.toNat ∧ (rspWord st d).extractLsb' 0 16 = d

/-- R10: a command word gets exactly one response; a refusal has data 0 and changes no register, flag or buffer byte;
no step changes the parameters. -/
def Obligations.RefusedCommandChangesNothing : Prop :=
  ∀ (s t : State) (w : CmdWord) (rest : List PortEvent),
    s.pending = .command w :: rest → Sys2Proof.Machine.step s = .next t →
      ∃ (st : Status) (d : Half),
        t.responses = s.responses ++ [rspWord st d] ∧ t.pending = rest ∧ t.cfg = s.cfg ∧
        (st ≠ .ok → d = 0 ∧ t = { s with pending := rest, responses := s.responses ++ [rspWord st 0] })

/-- R191: from a state that meets the invariant every step answers a next state, and a sequence of `n` command words
produces exactly `n` response words. -/
def Obligations.EveryOperationCompletes : Prop :=
  (∀ s : State, Inv s → ∃ t, Sys2Proof.Machine.step s = .next t) ∧
  (∀ (s : State) (ws : List CmdWord), Inv s → s.pending = ws.map .command →
    ∃ t, Sys2Proof.core.run ws.length s = .next t ∧ t.pending = [] ∧
      t.responses.length = s.responses.length + ws.length)

/-! ### Reset -/

/-- R38, the reset values, for every instance: every register 0, `LOAD`, `RECV`, `NONE`; the default instance is
`ARG_BYTES = 1`, `PAYLOAD_MAX = 255` (R4). Nothing is pending or answered and no buffer byte is written (logs 1, 3
and 6). -/
def Obligations.PowerUpRegisterValues : Prop :=
  (∀ c : Config, AfterReset (State.powerUp c) ∧ (State.powerUp c).cfg = c ∧ (State.powerUp c).tx.buf = [] ∧
    (State.powerUp c).rx.buf = [] ∧ (State.powerUp c).pending = [] ∧ (State.powerUp c).responses = []) ∧
  State.reset = State.powerUp { argBytes := .one, payloadMax := 255 }

/-- R175: the reset input puts every register at its reset value, which is the state that `CS_CLR`, `TX_CLR` and
`RX_CLR` together produce, and what the reads return then. R176: buffers and parameters are not changed. -/
def Obligations.ResetInputEqualsTheThreeClears : Prop :=
  (∀ (s : State) (rest : List PortEvent), ∃ t,
    Sys2Proof.Machine.step { s with pending := .reset :: rest } = .next t ∧ AfterReset t ∧
      t.tx.buf = s.tx.buf ∧ t.rx.buf = s.rx.buf ∧ t.cfg = s.cfg ∧ t.pending = rest ∧ t.responses = s.responses ∧
      Sys2Proof.core.run 3 { s with pending := commands [.csClr, .txClr, .rxClr] ++ rest } =
        .next { t with responses := s.responses ++ [rspWord .ok 0, rspWord .ok 0, rspWord .ok 0] }) ∧
  (∀ s : State, AfterReset s →
    Sys2Proof.Machine.exec .csGet s = .next { s with responses := s.responses ++ [rspWord .ok 0xFFFF] } ∧
    Sys2Proof.Machine.exec .txStat s = .next { s with responses := s.responses ++ [rspWord .ok 0] } ∧
    Sys2Proof.Machine.exec .rxStat s = .next { s with responses := s.responses ++ [rspWord .ok 0] } ∧
    Sys2Proof.Machine.exec .txGetLen s = .next { s with responses := s.responses ++ [rspWord .ok 0] } ∧
    Sys2Proof.Machine.exec .rxGetSrc s = .next { s with responses := s.responses ++ [rspWord .ok 0] } ∧
    Sys2Proof.Machine.exec .rxGetDst s = .next { s with responses := s.responses ++ [rspWord .ok 0] } ∧
    Sys2Proof.Machine.exec .rxGetCmd s = .next { s with responses := s.responses ++ [rspWord .ok 0] } ∧
    Sys2Proof.Machine.exec .rxGetArg s = .next { s with responses := s.responses ++ [rspWord .ok 0] } ∧
    Sys2Proof.Machine.exec .rxGetLen s = .next { s with responses := s.responses ++ [rspWord .ok 0] } ∧
    Sys2Proof.Machine.exec .rxGetCk s = .next { s with responses := s.responses ++ [rspWord .ok 0] } ∧
    Sys2Proof.Machine.exec .rxGetCalc s = .next { s with responses := s.responses ++ [rspWord .ok 0xFFFF] } ∧
    ∀ j : Byte, Sys2Proof.Machine.exec (.rxRdBuf j) s =
      .next { s with responses := s.responses ++ [rspWord .badOperand 0] })

/-! ### Invariants -/

/-- The invariants hold of every instance after power-up, the default one among them. -/
def Obligations.InvariantsHoldAtReset : Prop :=
  (∀ c : Config, Inv (State.powerUp c) ∧ Received (State.powerUp c)) ∧ Inv State.reset ∧ Received State.reset

/-- R37, inductively: every step keeps the invariants (a) to (h), the bound of R24 and the canonical form of both
buffers. -/
def Obligations.EveryStepKeepsTheInvariant : Prop :=
  ∀ s t : State, Inv s → Sys2Proof.Machine.step s = .next t → Inv t

/-- R37, (a) to (h): what holds in every state reachable from reset by any sequence of operations and resets, in every
instance. (The reset state is power-up, where no buffer byte is written: log 6.) -/
def Obligations.EveryReachableStateMeetsTheInvariant : Prop :=
  ∀ (c : Config) (events : List PortEvent) (k : Nat), k ≤ events.length → ∃ t,
    Sys2Proof.core.run k { State.powerUp c with pending := events } = .next t ∧ t.cfg = c ∧
    t.tx.len ≤ c.payloadMax ∧
    (t.tx.state = .load → t.tx.pos = 0) ∧
    (t.tx.state = .emit → t.tx.pos.toNat ≤ c.headerLen + t.tx.len.toNat + 1 ∧
      ∃ f, encodeFrame c t.tx.packet = some f ∧
        t.tx.acc.toNat = byteSum (f.take (min t.tx.pos.toNat (c.headerLen + t.tx.len.toNat))) % 65536) ∧
    (c.argBytes = .one → highByte t.tx.arg = 0 ∧ highByte t.rx.arg = 0) ∧
    (t.rx.err ≠ .none ↔ t.rx.state = .err) ∧
    (t.rx.state = .done → t.rx.len ≤ c.payloadMax ∧ t.rx.pos.toNat = c.headerLen + t.rx.len.toNat + 2 ∧
      t.rx.ck = t.rx.acc ^^^ 0xFFFF) ∧
    (t.rx.state = .recv → t.rx.pos.toNat ≤ c.headerLen + t.rx.len.toNat + 1) ∧
    t.tx.buf.filled t.tx.len.toNat ∧ t.rx.buf.filled (t.rx.cnt c)

/-- R28, R29, R24: every step keeps what the RX registers say of the bytes received: `RX_ACC` is their sum and a
register whose byte has not arrived is 0. -/
def Obligations.EveryStepKeepsReceivedSum : Prop :=
  ∀ s t : State, Inv s → Received s → Sys2Proof.Machine.step s = .next t → Received t

/-! ### The CS family -/

/-- R83. -/
def Obligations.CsClrZeroesTheSum : Prop :=
  IssuesZ 0x10 .csClr ∧
  ∀ s : State, Sys2Proof.Machine.exec .csClr s =
    .next { s with csAcc := 0, responses := s.responses ++ [rspWord .ok 0] }

/-- R84. -/
def Obligations.CsAddAddsModulo65536 : Prop :=
  IssuesB 0x11 .csAdd ∧
  ∀ (s : State) (b : Byte), Sys2Proof.Machine.exec (.csAdd b) s =
    .next { s with csAcc := BitVec.ofNat 16 ((s.csAcc.toNat + b.toNat) % 65536)
                   responses := s.responses ++ [rspWord .ok 0] }

/-- R85. -/
def Obligations.CsGetReturnsTheComplement : Prop :=
  IssuesZ 0x12 .csGet ∧
  ∀ s : State, Sys2Proof.Machine.exec .csGet s =
    .next { s with responses := s.responses ++ [rspWord .ok (BitVec.ofNat 16 (65535 - s.csAcc.toNat))] }

/-- R87: after `CS_CLR`, the `CS_ADD`s of `d` with `CS_GET`s and operations of other units in between, `CS_GET`
returns `Checksum16(d)`. -/
def Obligations.CsUnitComputesChecksum16 : Prop :=
  ∀ (s : State) (ops : List Instr), Inv s → .csClr ∉ ops →
    ∃ t, Sys2Proof.core.run (ops.length + 2)
        { s with pending := commands (.csClr :: ops ++ [.csGet]) } = .next t ∧
      t.responses.getLast? = some (rspWord .ok (checksum16 (addedBytes ops)))

/-! ### The TX family -/

/-- R93: every TX register 0 from any state, `TX_BUF` not written, CS and RX untouched. -/
def Obligations.TxClrResetsTheFramer : Prop :=
  IssuesZ 0x20 .txClr ∧
  ∀ s : State, Sys2Proof.Machine.exec .txClr s =
    .next { s with
      tx := { src := 0, dst := 0, cmd := 0, arg := 0, len := 0, state := .load, pos := 0, acc := 0, buf := s.tx.buf }
      responses := s.responses ++ [rspWord .ok 0] }

/-- R94, R95, R96: in `LOAD` each setter writes its own field; in `EMIT` it is refused. -/
def Obligations.TxByteSettersWriteTheirField : Prop :=
  IssuesB 0x21 .txSetSrc ∧ IssuesB 0x22 .txSetDst ∧ IssuesB 0x23 .txSetCmd ∧
  ∀ (s : State) (b : Byte),
    (s.tx.state = .load →
      Sys2Proof.Machine.exec (.txSetSrc b) s =
        .next { s with tx := { s.tx with src := b }, responses := s.responses ++ [rspWord .ok 0] } ∧
      Sys2Proof.Machine.exec (.txSetDst b) s =
        .next { s with tx := { s.tx with dst := b }, responses := s.responses ++ [rspWord .ok 0] } ∧
      Sys2Proof.Machine.exec (.txSetCmd b) s =
        .next { s with tx := { s.tx with cmd := b }, responses := s.responses ++ [rspWord .ok 0] }) ∧
    (s.tx.state = .emit →
      Sys2Proof.Machine.exec (.txSetSrc b) s =
        .next { s with responses := s.responses ++ [rspWord .badState 0] } ∧
      Sys2Proof.Machine.exec (.txSetDst b) s =
        .next { s with responses := s.responses ++ [rspWord .badState 0] } ∧
      Sys2Proof.Machine.exec (.txSetCmd b) s =
        .next { s with responses := s.responses ++ [rspWord .badState 0] })

/-- R97: the state is checked first, then the operand; a value too wide for the instance is refused, never
truncated. -/
def Obligations.TxSetArgRefusesWhatDoesNotFit : Prop :=
  IssuesH 0x24 .txSetArg ∧
  ∀ (s : State) (x : Half),
    (s.tx.state = .emit →
      Sys2Proof.Machine.exec (.txSetArg x) s =
        .next { s with responses := s.responses ++ [rspWord .badState 0] }) ∧
    (s.tx.state = .load → s.cfg.argBytes = .one ∧ 256 ≤ x.toNat →
      Sys2Proof.Machine.exec (.txSetArg x) s =
        .next { s with responses := s.responses ++ [rspWord .badOperand 0] }) ∧
    (s.tx.state = .load → s.cfg.argBytes = .two ∨ x.toNat < 256 →
      Sys2Proof.Machine.exec (.txSetArg x) s =
        .next { s with tx := { s.tx with arg := x }, responses := s.responses ++ [rspWord .ok 0] })

/-- R98: the byte is stored at `TX_BUF:TX_LEN`, every other byte of both buffers reads as before, the new `TX_LEN` is
returned; `FULL` at `PAYLOAD_MAX`; `BAD_STATE` in `EMIT`, checked first. (`TX_LEN` above `PAYLOAD_MAX` is ruled out by
R37 (a).) -/
def Obligations.TxPushAppendsOneByte : Prop :=
  IssuesB 0x25 .txPush ∧
  ∀ (s : State) (b : Byte),
    (s.tx.state = .emit →
      Sys2Proof.Machine.exec (.txPush b) s =
        .next { s with responses := s.responses ++ [rspWord .badState 0] }) ∧
    (s.tx.state = .load → s.tx.len = s.cfg.payloadMax →
      Sys2Proof.Machine.exec (.txPush b) s =
        .next { s with responses := s.responses ++ [rspWord .full 0] }) ∧
    (s.tx.state = .load → s.tx.len.toNat < s.cfg.payloadMax.toNat → ∃ m : Memory,
      Sys2Proof.Machine.exec (.txPush b) s =
        .next { s with
          tx := { s.tx with len := BitVec.ofNat 8 (s.tx.len.toNat + 1), buf := m }
          responses := s.responses ++ [rspWord .ok (BitVec.ofNat 16 (s.tx.len.toNat + 1))] } ∧
      ∀ j : Byte, m.read j = if j = s.tx.len then some b else s.tx.buf.read j)

/-- R99. -/
def Obligations.TxStartFreezesThePacket : Prop :=
  IssuesZ 0x26 .txStart ∧
  ∀ s : State,
    (s.tx.state = .load →
      Sys2Proof.Machine.exec .txStart s =
        .next { s with
          tx := { s.tx with state := .emit, pos := 0, acc := 0 }, responses := s.responses ++ [rspWord .ok 0] }) ∧
    (s.tx.state = .emit →
      Sys2Proof.Machine.exec .txStart s =
        .next { s with responses := s.responses ++ [rspWord .badState 0] })

/-- R100: content byte, low checksum byte, high checksum byte with `LAST`; refused in `LOAD`. (That the payload byte
at the position has been written is R37 (h).) -/
def Obligations.TxPopDeliversTheNextByte : Prop :=
  IssuesZ 0x27 .txPop ∧
  ∀ s : State,
    (s.tx.state = .load →
      Sys2Proof.Machine.exec .txPop s =
        .next { s with responses := s.responses ++ [rspWord .badState 0] }) ∧
    (∀ b : Byte, s.tx.state = .emit → s.tx.pos.toNat < s.cfg.headerLen + s.tx.len.toNat →
      txByte s.cfg s.tx s.tx.pos.toNat = some b →
      Sys2Proof.Machine.exec .txPop s =
        .next { s with
          tx := { s.tx with
            acc := BitVec.ofNat 16 ((s.tx.acc.toNat + b.toNat) % 65536), pos := BitVec.ofNat 9 (s.tx.pos.toNat + 1) }
          responses := s.responses ++ [rspWord .ok (BitVec.ofNat 16 b.toNat)] }) ∧
    (s.tx.state = .emit → s.tx.pos.toNat = s.cfg.headerLen + s.tx.len.toNat →
      Sys2Proof.Machine.exec .txPop s =
        .next { s with
          tx := { s.tx with pos := BitVec.ofNat 9 (s.tx.pos.toNat + 1) }
          responses := s.responses ++ [rspWord .ok (BitVec.ofNat 16 ((65535 - s.tx.acc.toNat) % 256))] }) ∧
    (s.tx.state = .emit → s.tx.pos.toNat = s.cfg.headerLen + s.tx.len.toNat + 1 →
      Sys2Proof.Machine.exec .txPop s =
        .next { s with
          tx := { s.tx with state := .load, pos := 0 }
          responses := s.responses ++ [rspWord .ok (BitVec.ofNat 16 (256 + (65535 - s.tx.acc.toNat) / 256))] })

/-- R101, R102: the two TX reads. -/
def Obligations.TxReadsReturnTheirRegister : Prop :=
  IssuesZ 0x28 .txStat ∧ IssuesZ 0x29 .txGetLen ∧
  ∀ s : State,
    Sys2Proof.Machine.exec .txStat s =
      .next { s with
        responses := s.responses ++
          [rspWord .ok (BitVec.ofNat 16 ((if s.tx.state = .emit then 0x4000 else 0) + s.tx.pos.toNat))] } ∧
    Sys2Proof.Machine.exec .txGetLen s =
      .next { s with responses := s.responses ++ [rspWord .ok (BitVec.ofNat 16 s.tx.len.toNat)] }

/-- R106, row by row; the checksum positions and everything past them are not given. -/
def Obligations.TxByteTable : Prop :=
  ∀ (c : Config) (t : TxUnit),
    txByte c t 0 = some t.src ∧ txByte c t 1 = some t.dst ∧ txByte c t 2 = some t.cmd ∧
    txByte c t 3 = some (BitVec.ofNat 8 (t.arg.toNat % 256)) ∧
    (c.argBytes = .two → txByte c t 4 = some (BitVec.ofNat 8 (t.arg.toNat / 256))) ∧
    txByte c t (3 + c.argBytes.toNat) = some t.len ∧
    (∀ q, c.headerLen ≤ q → q < c.headerLen + t.len.toNat →
      txByte c t q = t.buf.read (BitVec.ofNat 8 (q - c.headerLen))) ∧
    ∀ q, c.headerLen + t.len.toNat ≤ q → txByte c t q = none

/-- R90, R106: the unit's byte at a content position is the byte of the encoded content of the Packet it holds. -/
def Obligations.TxByteAgreesWithTheContent : Prop :=
  ∀ (c : Config) (t : TxUnit) (q : Nat), t.buf.filled t.len.toNat → q < c.headerLen + t.len.toNat →
    txByte c t q = (contentBytes c t.packet)[q]? ∧ (txByte c t q).isSome

/-- R107, first half: in `LOAD` the unit holds a well-formed Packet `p`; `TX_START` and as many `TX_POP`s as
`Encode(p)` has bytes deliver exactly those bytes, `LAST` on the last one only, and leave the unit in `LOAD` holding
the same Packet; CS, RX and the buffers are untouched. -/
def Obligations.EmissionDeliversTheEncodedFrame : Prop :=
  ∀ s : State, Inv s → s.tx.state = .load →
    ∃ f, encodeFrame s.cfg s.tx.packet = some f ∧ f.length = s.cfg.frameLen s.tx.len.toNat ∧
      Sys2Proof.core.run (f.length + 1) { s with pending := commands (txEmit f.length) } =
        .next { s with
          tx := { s.tx with acc := BitVec.ofNat 16 (byteSum (contentBytes s.cfg s.tx.packet) % 65536) }
          pending := []
          responses := s.responses ++ rspWord .ok 0 :: popResponses f }

/-- R107, second half: after `TX_LOAD p` for a well-formed Packet every operation has completed with `OK` and the
unit holds `p`, from any state. -/
def Obligations.LoadingAPacketHoldsIt : Prop :=
  ∀ (s : State) (p : Packet), p.wellFormed s.cfg = true →
    ∃ t, Sys2Proof.core.run (p.payload.length + 5) { s with pending := commands (txLoad p) } = .next t ∧
      t.tx.packet = p ∧ t.tx.len.toNat = p.payload.length ∧ t.tx.state = .load ∧ t.tx.pos = 0 ∧
      t.pending = [] ∧ t.cfg = s.cfg ∧ t.csAcc = s.csAcc ∧ t.rx = s.rx ∧
      t.responses = s.responses ++ List.replicate 5 (rspWord .ok 0)
        ++ (List.range p.payload.length).map (fun k => rspWord .ok (BitVec.ofNat 16 (k + 1)))

/-- R103: while emitting, no operation but `TX_CLR` changes the Packet; the setters, `TX_PUSH` and `TX_START` are
refused. -/
def Obligations.PacketIsImmutableWhileEmitting : Prop :=
  ∀ (s : State) (i : Instr), s.tx.state = .emit →
    (i ≠ .txClr → ∀ t, Sys2Proof.Machine.exec i s = .next t →
      t.tx.src = s.tx.src ∧ t.tx.dst = s.tx.dst ∧ t.tx.cmd = s.tx.cmd ∧ t.tx.arg = s.tx.arg ∧
        t.tx.len = s.tx.len ∧ t.tx.buf = s.tx.buf) ∧
    ((i = .txStart ∨ (∃ x, i = .txSetArg x) ∨
        ∃ b, i = .txSetSrc b ∨ i = .txSetDst b ∨ i = .txSetCmd b ∨ i = .txPush b) →
      Sys2Proof.Machine.exec i s = .next { s with responses := s.responses ++ [rspWord .badState 0] })

/-- R180: the next state of the TX state machine for every state and operation. -/
def Obligations.TxStateMachine : Prop :=
  ∀ (s t : State) (i : Instr), Inv s → Sys2Proof.Machine.exec i s = .next t →
    (s.tx.state = .load → (t.tx.state = .emit ↔ i = .txStart)) ∧
    (s.tx.state = .emit →
      (t.tx.state = .load ↔ i = .txClr ∨ (i = .txPop ∧ s.tx.pos.toNat + 1 = s.cfg.frameLen s.tx.len.toNat))) ∧
    (s.tx.state = .emit → i = .txPop → s.tx.pos.toNat + 1 < s.cfg.frameLen s.tx.len.toNat →
      t.tx.pos.toNat = s.tx.pos.toNat + 1) ∧
    (i = .txClr → t.tx = TxUnit.atReset s.tx.buf) ∧
    (s.tx.state = .load → i = .txStart → t.tx.pos = 0 ∧ t.tx.acc = 0)

/-! ### The RX family -/

/-- R115: every RX register at its reset value from any state, `RX_BUF` not written. -/
def Obligations.RxClrRearmsTheDeframer : Prop :=
  IssuesZ 0x30 .rxClr ∧
  ∀ s : State, Sys2Proof.Machine.exec .rxClr s =
    .next { s with
      rx := { src := 0, dst := 0, cmd := 0, arg := 0, len := 0, state := .recv, err := .none, pos := 0, acc := 0,
              ck := 0, buf := s.rx.buf }
      responses := s.responses ++ [rspWord .ok 0] }

/-- R129, row by row; that there is no phase past the end of the frame is the model's (log 7). -/
def Obligations.RxPhaseTable : Prop :=
  ∀ (c : Config) (n : Byte),
    rxPhase c n 0 = some .src ∧ rxPhase c n 1 = some .dst ∧ rxPhase c n 2 = some .cmd ∧
    rxPhase c n 3 = some .arg0 ∧ (c.argBytes = .two → rxPhase c n 4 = some .arg1) ∧
    rxPhase c n (3 + c.argBytes.toNat) = some .len ∧
    (∀ q, c.headerLen ≤ q → q < c.headerLen + n.toNat → rxPhase c n q = some .payload) ∧
    rxPhase c n (c.headerLen + n.toNat) = some .ck0 ∧
    rxPhase c n (c.headerLen + n.toNat + 1) = some .ck1 ∧
    ∀ q, c.headerLen + n.toNat + 1 < q → rxPhase c n q = none

/-- R116, the header: each byte goes to its register, is added to `RX_ACC` and advances `RX_POS`; an oversize length
byte is a framing error, recorded while the operation completes with `OK`. -/
def Obligations.RxPushTakesHeaderBytes : Prop :=
  IssuesB 0x31 .rxPush ∧
  ∀ (s : State) (b : Byte) (u : RxUnit), s.rx.state = .recv →
    u = { s.rx with
      acc := BitVec.ofNat 16 ((s.rx.acc.toNat + b.toNat) % 65536), pos := BitVec.ofNat 9 (s.rx.pos.toNat + 1) } →
    (s.rx.pos = 0 → Sys2Proof.Machine.exec (.rxPush b) s =
      .next { s with
        rx := { u with src := b }, responses := s.responses ++ [rspWord .ok (rxStatusWord { u with src := b })] }) ∧
    (s.rx.pos = 1 → Sys2Proof.Machine.exec (.rxPush b) s =
      .next { s with
        rx := { u with dst := b }, responses := s.responses ++ [rspWord .ok (rxStatusWord { u with dst := b })] }) ∧
    (s.rx.pos = 2 → Sys2Proof.Machine.exec (.rxPush b) s =
      .next { s with
        rx := { u with cmd := b }, responses := s.responses ++ [rspWord .ok (rxStatusWord { u with cmd := b })] }) ∧
    (s.rx.pos = 3 → ∀ v : RxUnit, v = { u with arg := BitVec.ofNat 16 b.toNat } →
      Sys2Proof.Machine.exec (.rxPush b) s =
        .next { s with rx := v, responses := s.responses ++ [rspWord .ok (rxStatusWord v)] }) ∧
    (s.rx.pos = 4 → s.cfg.argBytes = .two → ∀ v : RxUnit,
      v = { u with arg := BitVec.ofNat 16 (256 * b.toNat + s.rx.arg.toNat % 256) } →
      Sys2Proof.Machine.exec (.rxPush b) s =
        .next { s with rx := v, responses := s.responses ++ [rspWord .ok (rxStatusWord v)] }) ∧
    (s.rx.pos.toNat = 3 + s.cfg.argBytes.toNat → ∀ v : RxUnit,
      v = (if s.cfg.payloadMax.toNat < b.toNat then { u with len := b, state := .err, err := .framing }
           else { u with len := b }) →
      Sys2Proof.Machine.exec (.rxPush b) s =
        .next { s with rx := v, responses := s.responses ++ [rspWord .ok (rxStatusWord v)] })

/-- R116, the payload: the byte is stored at `RX_BUF:(RX_POS - H)`, every other byte of the buffer reads as before. -/
def Obligations.RxPushStoresPayloadBytes : Prop :=
  ∀ (s : State) (b : Byte), s.rx.state = .recv → s.cfg.headerLen ≤ s.rx.pos.toNat →
    s.rx.pos.toNat < s.cfg.headerLen + s.rx.len.toNat →
    ∃ (m : Memory) (v : RxUnit),
      v = { s.rx with
        acc := BitVec.ofNat 16 ((s.rx.acc.toNat + b.toNat) % 65536), pos := BitVec.ofNat 9 (s.rx.pos.toNat + 1)
        buf := m } ∧
      Sys2Proof.Machine.exec (.rxPush b) s =
        .next { s with rx := v, responses := s.responses ++ [rspWord .ok (rxStatusWord v)] } ∧
      ∀ j : Byte, m.read j = if j.toNat = s.rx.pos.toNat - s.cfg.headerLen then some b else s.rx.buf.read j

/-- R116, the checksum: the two bytes form `RX_CK`, low byte first, and are not added to `RX_ACC`; at the second the
received value is compared with the complement of the sum and the frame ends in `DONE` or in a checksum error. In
`DONE` and `ERR` the byte is refused and dropped. -/
def Obligations.RxPushEndsTheFrame : Prop :=
  ∀ (s : State) (b : Byte) (v : RxUnit),
    (s.rx.state = .recv → s.rx.pos.toNat = s.cfg.headerLen + s.rx.len.toNat →
      v = { s.rx with ck := BitVec.ofNat 16 b.toNat, pos := BitVec.ofNat 9 (s.rx.pos.toNat + 1) } →
      Sys2Proof.Machine.exec (.rxPush b) s =
        .next { s with rx := v, responses := s.responses ++ [rspWord .ok (rxStatusWord v)] }) ∧
    (s.rx.state = .recv → s.rx.pos.toNat = s.cfg.headerLen + s.rx.len.toNat + 1 →
      256 * b.toNat + s.rx.ck.toNat % 256 = 65535 - s.rx.acc.toNat →
      v = { s.rx with
        ck := BitVec.ofNat 16 (256 * b.toNat + s.rx.ck.toNat % 256), pos := BitVec.ofNat 9 (s.rx.pos.toNat + 1)
        state := .done } →
      Sys2Proof.Machine.exec (.rxPush b) s =
        .next { s with rx := v, responses := s.responses ++ [rspWord .ok (rxStatusWord v)] }) ∧
    (s.rx.state = .recv → s.rx.pos.toNat = s.cfg.headerLen + s.rx.len.toNat + 1 →
      256 * b.toNat + s.rx.ck.toNat % 256 ≠ 65535 - s.rx.acc.toNat →
      v = { s.rx with
        ck := BitVec.ofNat 16 (256 * b.toNat + s.rx.ck.toNat % 256), pos := BitVec.ofNat 9 (s.rx.pos.toNat + 1)
        state := .err, err := .checksum } →
      Sys2Proof.Machine.exec (.rxPush b) s =
        .next { s with rx := v, responses := s.responses ++ [rspWord .ok (rxStatusWord v)] }) ∧
    (s.rx.state ≠ .recv →
      Sys2Proof.Machine.exec (.rxPush b) s =
        .next { s with responses := s.responses ++ [rspWord .badState 0] })

/-- R117: in `RECV` the end of the input is a framing error and everything else is kept; in `DONE` and `ERR` it is a
read of the status word. -/
def Obligations.RxEndRecordsTruncation : Prop :=
  IssuesZ 0x32 .rxEnd ∧
  ∀ s : State,
    (s.rx.state = .recv →
      Sys2Proof.Machine.exec .rxEnd s =
        .next { s with
          rx := { s.rx with state := .err, err := .framing }
          responses := s.responses ++ [rspWord .ok (BitVec.ofNat 16 (0xA000 + s.rx.pos.toNat))] }) ∧
    (s.rx.state ≠ .recv →
      Sys2Proof.Machine.exec .rxEnd s =
        .next { s with responses := s.responses ++ [rspWord .ok (rxStatusWord s.rx)] })

/-- R119 to R123, R125, R126: each read returns its register zero-extended, in every state, and changes nothing. -/
def Obligations.RxReadsReturnTheirRegister : Prop :=
  IssuesZ 0x34 .rxGetSrc ∧ IssuesZ 0x35 .rxGetDst ∧ IssuesZ 0x36 .rxGetCmd ∧ IssuesZ 0x37 .rxGetArg ∧
  IssuesZ 0x38 .rxGetLen ∧ IssuesZ 0x3A .rxGetCk ∧ IssuesZ 0x3B .rxGetCalc ∧
  ∀ s : State,
    Sys2Proof.Machine.exec .rxGetSrc s =
      .next { s with responses := s.responses ++ [rspWord .ok (BitVec.ofNat 16 s.rx.src.toNat)] } ∧
    Sys2Proof.Machine.exec .rxGetDst s =
      .next { s with responses := s.responses ++ [rspWord .ok (BitVec.ofNat 16 s.rx.dst.toNat)] } ∧
    Sys2Proof.Machine.exec .rxGetCmd s =
      .next { s with responses := s.responses ++ [rspWord .ok (BitVec.ofNat 16 s.rx.cmd.toNat)] } ∧
    Sys2Proof.Machine.exec .rxGetArg s =
      .next { s with responses := s.responses ++ [rspWord .ok s.rx.arg] } ∧
    Sys2Proof.Machine.exec .rxGetLen s =
      .next { s with responses := s.responses ++ [rspWord .ok (BitVec.ofNat 16 s.rx.len.toNat)] } ∧
    Sys2Proof.Machine.exec .rxGetCk s =
      .next { s with responses := s.responses ++ [rspWord .ok s.rx.ck] } ∧
    Sys2Proof.Machine.exec .rxGetCalc s =
      .next { s with responses := s.responses ++ [rspWord .ok (BitVec.ofNat 16 (65535 - s.rx.acc.toNat))] }

/-- R118, R34: the RX status word in every state, and the only values of its top four bits that occur. -/
def Obligations.RxStatReturnsTheStatusWord : Prop :=
  IssuesZ 0x33 .rxStat ∧
  ∀ s : State,
    Sys2Proof.Machine.exec .rxStat s =
      .next { s with
        responses := s.responses ++
          [rspWord .ok (BitVec.ofNat 16
            (0x4000 * rxStateNumber s.rx.state + 0x1000 * rxErrNumber s.rx.err + s.rx.pos.toNat))] } ∧
    (Inv s → (rxStatusWord s.rx).toNat / 4096 ∈ [0b0000, 0b0100, 0b1001, 0b1010])

/-- R124: an index below `RX_CNT` returns the byte, every other is refused; nothing changes. (That the byte has been
written is R37 (h).) -/
def Obligations.RxRdBufReadsBelowTheCount : Prop :=
  IssuesB 0x39 .rxRdBuf ∧
  ∀ (s : State) (j : Byte),
    (min (s.rx.pos.toNat - s.cfg.headerLen) s.rx.len.toNat ≤ j.toNat →
      Sys2Proof.Machine.exec (.rxRdBuf j) s =
        .next { s with responses := s.responses ++ [rspWord .badOperand 0] }) ∧
    (∀ b : Byte, j.toNat < min (s.rx.pos.toNat - s.cfg.headerLen) s.rx.len.toNat → s.rx.buf.read j = some b →
      Sys2Proof.Machine.exec (.rxRdBuf j) s =
        .next { s with responses := s.responses ++ [rspWord .ok (BitVec.ofNat 16 b.toNat)] }) ∧
    (Inv s → j.toNat < min (s.rx.pos.toNat - s.cfg.headerLen) s.rx.len.toNat → (s.rx.buf.read j).isSome)

/-- R128: in `DONE` or `ERR` nothing but `RX_CLR` changes the RX unit, and `RX_PUSH` is refused. -/
def Obligations.ResultIsHeldUntilCleared : Prop :=
  ∀ (s : State), s.rx.state ≠ .recv →
    (∀ (i : Instr) (t : State), i ≠ .rxClr → Sys2Proof.Machine.exec i s = .next t → t.rx = s.rx) ∧
    (∀ b : Byte, Sys2Proof.Machine.exec (.rxPush b) s =
      .next { s with responses := s.responses ++ [rspWord .badState 0] })

/-- R151, R152, R181: what ends a frame. From a state that meets the invariant, `RX_STATE` leaves `RECV` only by a
checksum byte that completes the frame, an oversize length byte or `RX_END`, and to exactly the state and error the
rules give; it returns to `RECV` only by `RX_CLR`. -/
def Obligations.RxStateMachine : Prop :=
  ∀ (s t : State) (i : Instr), Inv s → Sys2Proof.Machine.exec i s = .next t →
    (s.rx.state = .recv →
      (t.rx.state = .done ↔ ∃ b : Byte, i = .rxPush b ∧ s.rx.pos.toNat + 1 = s.cfg.frameLen s.rx.len.toNat ∧
        s.cfg.headerLen ≤ s.rx.pos.toNat ∧ 256 * b.toNat + s.rx.ck.toNat % 256 = 65535 - s.rx.acc.toNat) ∧
      (t.rx.state = .err ∧ t.rx.err = .checksum ↔
        ∃ b : Byte, i = .rxPush b ∧ s.rx.pos.toNat + 1 = s.cfg.frameLen s.rx.len.toNat ∧
          s.cfg.headerLen ≤ s.rx.pos.toNat ∧ 256 * b.toNat + s.rx.ck.toNat % 256 ≠ 65535 - s.rx.acc.toNat) ∧
      (t.rx.state = .err ∧ t.rx.err = .framing ↔
        i = .rxEnd ∨ ∃ b : Byte, i = .rxPush b ∧ s.rx.pos.toNat + 1 = s.cfg.headerLen ∧
          s.cfg.payloadMax.toNat < b.toNat)) ∧
    (s.rx.state ≠ .recv → (t.rx.state = .recv ↔ i = .rxClr))

/-- R136: feeding any byte sequence from any state ends as `Decode` says, with the Packet in the registers when it is
one; the bytes of the frame complete with `OK` and every later one is refused with `BAD_STATE`. -/
def Obligations.FeedingAgreesWithDecode : Prop :=
  ∀ (s : State) (b : List Byte), ∃ t,
    Sys2Proof.core.run (b.length + 2) { s with pending := commands (rxFeed b) } = .next t ∧
    t.pending = [] ∧ t.tx = s.tx ∧ t.csAcc = s.csAcc ∧ t.cfg = s.cfg ∧
    (∀ p : Packet, decodeFrame s.cfg b = .ok p ↔ t.rx.state = .done ∧ t.rx.packet = p) ∧
    (decodeFrame s.cfg b = .error .checksum ↔ t.rx.state = .err ∧ t.rx.err = .checksum) ∧
    (decodeFrame s.cfg b = .error .framing ↔ t.rx.state = .err ∧ t.rx.err = .framing) ∧
    (t.rx.state = .done → t.rx.pos.toNat = s.cfg.frameLen t.rx.len.toNat ∧
      t.rx.ck = checksum16 (b.take (s.cfg.contentLen t.rx.len.toNat))) ∧
    ∃ accepted : List Half, accepted.length = acceptedLength s.cfg b ∧
      t.responses = s.responses ++ [rspWord .ok 0] ++ accepted.map (rspWord .ok)
        ++ List.replicate (b.length - acceptedLength s.cfg b) (rspWord .badState 0)
        ++ [rspWord .ok (rxStatusWord t.rx)]

/-- R137: pushing bytes after `RX_CLR`, the unit is in `DONE` or `ERR/CHECKSUM` exactly from the byte that completes
the frame on, in `ERR/FRAMING` exactly from an oversize length byte on, and otherwise still in `RECV`; every byte of
the frame is accepted and no other (R27, R136). -/
def Obligations.FrameEndsExactlyAtItsLastByte : Prop :=
  ∀ (s : State) (b : List Byte), ∃ t,
    Sys2Proof.core.run (b.length + 1) { s with pending := commands (.rxClr :: b.map .rxPush) } = .next t ∧
    t.rx.pos.toNat = acceptedLength s.cfg b ∧
    (t.rx.state = .recv ↔
      b.length < s.cfg.headerLen ∨
        (byteAt b (s.cfg.headerLen - 1) ≤ s.cfg.payloadMax ∧
          b.length < s.cfg.frameLen (byteAt b (s.cfg.headerLen - 1)).toNat)) ∧
    (t.rx.state = .done ∨ (t.rx.state = .err ∧ t.rx.err = .checksum) ↔
      byteAt b (s.cfg.headerLen - 1) ≤ s.cfg.payloadMax ∧
        s.cfg.frameLen (byteAt b (s.cfg.headerLen - 1)).toNat ≤ b.length) ∧
    (t.rx.state = .err ∧ t.rx.err = .framing ↔
      s.cfg.headerLen ≤ b.length ∧ s.cfg.payloadMax < byteAt b (s.cfg.headerLen - 1))

/-! ### The system family -/

/-- R142: the class code by cases, no state read or written. -/
def Obligations.AddrClsClassifiesTheOperand : Prop :=
  IssuesB 0x40 .addrCls ∧
  ∀ (s : State) (a : Byte), Sys2Proof.Machine.exec (.addrCls a) s =
    .next { s with responses := s.responses ++ [rspWord .ok (BitVec.ofNat 16 (classOf a))] }

/-- R141: `AddrClass` by cases and `AddrName`: the name of a named address, two upper-case hexadecimal digits for
every other. -/
def Obligations.AddressNamesAndClasses : Prop :=
  (∀ a : Byte, (addrClass a).toNat = classOf a) ∧
  addrName 0x01 = "MOTOR" ∧ addrName 0x20 = "ESC" ∧ addrName 0x21 = "BLE" ∧ addrName 0x22 = "BMS" ∧
  addrName 0x23 = "EXTBMS" ∧ addrName 0x3D = "HOST" ∧
  ∀ a : Byte, addrClass a = 0 → ∃ x y : Char,
    ['0', '1', '2', '3', '4', '5', '6', '7', '8', '9', 'A', 'B', 'C', 'D', 'E', 'F'][a.toNat / 16]? = some x ∧
    ['0', '1', '2', '3', '4', '5', '6', '7', '8', '9', 'A', 'B', 'C', 'D', 'E', 'F'][a.toNat % 16]? = some y ∧
    addrName a = String.ofList [x, y]

/-- R143, R35: the CFG word, no state read or written. -/
def Obligations.CfgGetReturnsTheParameters : Prop :=
  IssuesZ 0x41 .cfgGet ∧
  ∀ s : State, Sys2Proof.Machine.exec .cfgGet s =
    .next { s with
      responses := s.responses ++
        [rspWord .ok (BitVec.ofNat 16 (256 * s.cfg.payloadMax.toNat + s.cfg.argBytes.toNat))] }

/-! ### Rules of the whole machine -/

/-- R13, R105, R130: no operation of one unit writes the state of another, and none reads it: in two states that agree
on its own unit and on the parameters it gives the same response and leaves its unit the same. -/
def Obligations.UnitsShareNothing : Prop :=
  (∀ (i : Instr) (s t : State), Sys2Proof.Machine.exec i s = .next t →
    (opUnit i ≠ .cs → t.csAcc = s.csAcc) ∧ (opUnit i ≠ .tx → t.tx = s.tx) ∧ (opUnit i ≠ .rx → t.rx = s.rx)) ∧
  (∀ (i : Instr) (s u t : State), s.cfg = u.cfg → (opUnit i = .cs → s.csAcc = u.csAcc) →
    (opUnit i = .tx → s.tx = u.tx) → (opUnit i = .rx → s.rx = u.rx) → Sys2Proof.Machine.exec i s = .next t →
    ∃ (v : State) (r : RspWord), Sys2Proof.Machine.exec i u = .next v ∧
      t.responses = s.responses ++ [r] ∧ v.responses = u.responses ++ [r] ∧
      (opUnit i = .cs → t.csAcc = v.csAcc) ∧ (opUnit i = .tx → t.tx = v.tx) ∧ (opUnit i = .rx → t.rx = v.rx))

/-- R154, R155, R156: the complete lists of causes of the three refusals of an operation; each records nothing. -/
def Obligations.RefusalCausesAreComplete : Prop :=
  ∀ (i : Instr) (s t : State), Sys2Proof.Machine.exec i s = .next t →
    (t.responses = s.responses ++ [rspWord .badOperand 0] ↔
      (∃ x : Half, i = .txSetArg x ∧ s.tx.state = .load ∧ s.cfg.argBytes = .one ∧ 0xFF < x.toNat) ∨
      (∃ j : Byte, i = .rxRdBuf j ∧ s.rx.cnt s.cfg ≤ j.toNat)) ∧
    (t.responses = s.responses ++ [rspWord .badState 0] ↔
      (s.tx.state = .emit ∧ (i = .txStart ∨ (∃ x, i = .txSetArg x) ∨
        ∃ b, i = .txSetSrc b ∨ i = .txSetDst b ∨ i = .txSetCmd b ∨ i = .txPush b)) ∨
      (s.tx.state = .load ∧ i = .txPop) ∨ (s.rx.state ≠ .recv ∧ ∃ b, i = .rxPush b)) ∧
    (t.responses = s.responses ++ [rspWord .full 0] ↔
      ∃ b, i = .txPush b ∧ s.tx.state = .load ∧ s.tx.len = s.cfg.payloadMax) ∧
    (t.responses = s.responses ++ [rspWord .badOperand 0] ∨ t.responses = s.responses ++ [rspWord .badState 0] ∨
        t.responses = s.responses ++ [rspWord .full 0] → t = { s with responses := t.responses }) ∧
    t.responses ≠ s.responses ++ [rspWord .illegalOp 0]

/-- The model's choice (logs 6 and 7): where an operation stops. `exec` faults exactly when it would read a buffer byte
that nothing has written, or take a byte past the end of the frame in `RECV`, and it never refuses. (No such state is
reachable: `EveryReachableStateMeetsTheInvariant`, `EveryOperationCompletes`.) -/
def Obligations.ExecFaultsExactlyWhereListed : Prop :=
  ∀ (i : Instr) (s : State),
    (∀ f : Fault, Sys2Proof.Machine.exec i s = .fault f ↔
      (i = .txPop ∧ s.tx.state = .emit ∧ s.cfg.headerLen ≤ s.tx.pos.toNat ∧
        s.tx.pos.toNat < s.cfg.headerLen + s.tx.len.toNat ∧
        s.tx.buf.read (BitVec.ofNat 8 (s.tx.pos.toNat - s.cfg.headerLen)) = none ∧
        f = .unwrittenByte .txBuf (BitVec.ofNat 8 (s.tx.pos.toNat - s.cfg.headerLen))) ∨
      ((∃ b, i = .rxPush b) ∧ s.rx.state = .recv ∧ s.cfg.headerLen + s.rx.len.toNat + 1 < s.rx.pos.toNat ∧
        f = .positionPastFrame s.rx.pos) ∨
      (∃ j : Byte, i = .rxRdBuf j ∧ j.toNat < s.rx.cnt s.cfg ∧ s.rx.buf.read j = none ∧
        f = .unwrittenByte .rxBuf j)) ∧
    ∀ r : Refusal, Sys2Proof.Machine.exec i s ≠ .refused r

/-- R38, the column "written by": a register that an operation changes is one that the table lets it write. -/
def Obligations.OnlyTheListedOperationsWriteEachRegister : Prop :=
  ∀ (i : Instr) (s t : State), Sys2Proof.Machine.exec i s = .next t →
    t.cfg = s.cfg ∧ t.pending = s.pending ∧
    (t.csAcc ≠ s.csAcc → i = .csClr ∨ ∃ b, i = .csAdd b) ∧
    (t.tx.src ≠ s.tx.src → (∃ b, i = .txSetSrc b) ∨ i = .txClr) ∧
    (t.tx.dst ≠ s.tx.dst → (∃ b, i = .txSetDst b) ∨ i = .txClr) ∧
    (t.tx.cmd ≠ s.tx.cmd → (∃ b, i = .txSetCmd b) ∨ i = .txClr) ∧
    (t.tx.arg ≠ s.tx.arg → (∃ x, i = .txSetArg x) ∨ i = .txClr) ∧
    (t.tx.len ≠ s.tx.len → (∃ b, i = .txPush b) ∨ i = .txClr) ∧
    (t.tx.state ≠ s.tx.state → i = .txStart ∨ i = .txPop ∨ i = .txClr) ∧
    (t.tx.pos ≠ s.tx.pos → i = .txStart ∨ i = .txPop ∨ i = .txClr) ∧
    (t.tx.acc ≠ s.tx.acc → i = .txStart ∨ i = .txPop ∨ i = .txClr) ∧
    (t.tx.buf ≠ s.tx.buf → ∃ b, i = .txPush b) ∧
    (t.rx.src ≠ s.rx.src → (∃ b, i = .rxPush b) ∨ i = .rxClr) ∧
    (t.rx.dst ≠ s.rx.dst → (∃ b, i = .rxPush b) ∨ i = .rxClr) ∧
    (t.rx.cmd ≠ s.rx.cmd → (∃ b, i = .rxPush b) ∨ i = .rxClr) ∧
    (t.rx.arg ≠ s.rx.arg → (∃ b, i = .rxPush b) ∨ i = .rxClr) ∧
    (t.rx.len ≠ s.rx.len → (∃ b, i = .rxPush b) ∨ i = .rxClr) ∧
    (t.rx.state ≠ s.rx.state → (∃ b, i = .rxPush b) ∨ i = .rxEnd ∨ i = .rxClr) ∧
    (t.rx.err ≠ s.rx.err → (∃ b, i = .rxPush b) ∨ i = .rxEnd ∨ i = .rxClr) ∧
    (t.rx.pos ≠ s.rx.pos → (∃ b, i = .rxPush b) ∨ i = .rxClr) ∧
    (t.rx.acc ≠ s.rx.acc → (∃ b, i = .rxPush b) ∨ i = .rxClr) ∧
    (t.rx.ck ≠ s.rx.ck → (∃ b, i = .rxPush b) ∨ i = .rxClr) ∧
    (t.rx.buf ≠ s.rx.buf → ∃ b, i = .rxPush b)

/-- R53: buffer bytes at or past `TX_LEN` and `RX_CNT`, written or not, are unobservable: two states that differ only
there make the same steps, with the same responses, and differ only there again. -/
def Obligations.StaleBufferBytesAreUnobservable : Prop :=
  ∀ s u t : State, SameVisible s u → Sys2Proof.Machine.step s = .next t →
    ∃ v, Sys2Proof.Machine.step u = .next v ∧ SameVisible t v

/-! ### The pure functions -/

/-- R80, in both of its forms. -/
def Obligations.Checksum16Formula : Prop :=
  ∀ d : List Byte,
    (checksum16 d).toNat = (byteSum d % 65536) ^^^ 0xFFFF ∧ (checksum16 d).toNat = 65535 - byteSum d % 65536

/-- R82: the incremental form and its consequences. -/
def Obligations.Checksum16Incremental : Prop :=
  (∀ d e : List Byte, byteSum (d ++ e) % 65536 = (byteSum d % 65536 + byteSum e) % 65536) ∧
  (∀ d : List Byte, (d.foldl accAdd 0).toNat = byteSum d % 65536 ∧ accChecksum (d.foldl accAdd 0) = checksum16 d) ∧
  checksum16 [] = 0xFFFF ∧
  (∀ d e : List Byte, d.Perm e → checksum16 d = checksum16 e) ∧
  (∀ d : List Byte, checksum16 (d ++ [0]) = checksum16 d) ∧
  (∀ d e : List Byte, byteSum d % 65536 = byteSum e % 65536 → checksum16 d = checksum16 e)

/-- R90, R91: `Encode` is defined exactly on well-formed Packets, its length is `H + N + 2`, it is injective and
`Decode` inverts it. -/
def Obligations.EncodeLengthAndInjectivity : Prop :=
  ∀ (c : Config) (p : Packet),
    ((encodeFrame c p).isSome ↔ p.wellFormed c = true) ∧
    ∀ f, encodeFrame c p = some f →
      f.length = c.headerLen + p.payload.length + 2 ∧ (∀ q, encodeFrame c q = some f → q = p) ∧
        decodeFrame c f = .ok p

/-- R112, R113: a frame decodes to its Packet on every receiver with the same `ARG_BYTES` and a large enough
`PAYLOAD_MAX`, whatever bytes follow it; and bytes after a complete frame never change the result. -/
def Obligations.DecodeInvertsEncode : Prop :=
  (∀ (c r : Config) (p : Packet) (f tail : List Byte), encodeFrame c p = some f → r.argBytes = c.argBytes →
    p.payload.length ≤ r.payloadMax.toNat → decodeFrame r (f ++ tail) = .ok p) ∧
  (∀ (c : Config) (b tail : List Byte), decodeFrame c b ≠ .error .framing →
    decodeFrame c (b ++ tail) = decodeFrame c b)

/-- R110, R111: a sequence is a framing error exactly when its header is incomplete, its length is oversize or it is
shorter than the frame it declares, whatever its checksum; otherwise it is a checksum error exactly when the received
checksum differs from the computed one. -/
def Obligations.DecodeChecksStructureFirst : Prop :=
  ∀ (c : Config) (b : List Byte) (n : Nat), n = (byteAt b (c.headerLen - 1)).toNat →
    (decodeFrame c b = .error .framing ↔
      b.length < c.headerLen ∨ c.payloadMax.toNat < n ∨ b.length < c.headerLen + n + 2) ∧
    (decodeFrame c b = .error .checksum ↔
      c.headerLen + n + 2 ≤ b.length ∧ n ≤ c.payloadMax.toNat ∧
        (checksum16 (b.take (c.headerLen + n))).toNat ≠
          (byteAt b (c.headerLen + n)).toNat + 256 * (byteAt b (c.headerLen + n + 1)).toNat)

/-- R86: a single-bit flip anywhere but in `payload_len` is always a checksum error (items 1 and 2); one in
`payload_len` can go undetected (item 3); corruption that keeps the sum is never detected (item 4). -/
def Obligations.ChecksumDetection : Prop :=
  (∀ (c : Config) (p : Packet) (f : List Byte) (j k : Nat) (b : Byte), encodeFrame c p = some f →
    j ≠ c.headerLen - 1 → k < 8 → f[j]? = some b →
    decodeFrame c (f.set j (b ^^^ BitVec.twoPow 8 k)) = .error .checksum) ∧
  (∃ (c : Config) (p q : Packet) (f : List Byte) (b : Byte) (k : Nat), encodeFrame c p = some f ∧
    f[c.headerLen - 1]? = some b ∧ k < 8 ∧
    decodeFrame c (f.set (c.headerLen - 1) (b ^^^ BitVec.twoPow 8 k)) = .ok q ∧ q ≠ p) ∧
  (∀ (c : Config) (p q : Packet), p.wellFormed c = true → q.wellFormed c = true →
    byteSum (contentBytes c q) % 65536 = byteSum (contentBytes c p) % 65536 →
    decodeFrame c (contentBytes c q
      ++ [lowByte (checksum16 (contentBytes c p)), highByte (checksum16 (contentBytes c p))]) = .ok q)
end

