-- ==== Sys2Proof/Laws/Encoding.lean ====
section
/-!
SUPPORT. The fields of a command word put together from an opcode and an operand field, and the rows of the opcode
table that accept it.
-/

namespace Sys2Proof

/-- The upper part of a concatenation. -/
theorem extract_append_high {w v : Nat} (x : BitVec w) (y : BitVec v) : (x ++ y).extractLsb' v w = x := by
  ext i hi
  simp [BitVec.getLsbD_append, hi]

/-- The lower part of a concatenation. -/
theorem extract_append_low {w v : Nat} (x : BitVec w) (y : BitVec v) : (x ++ y).extractLsb' 0 v = y := by
  ext i hi
  simp [BitVec.getLsbD_append, hi]

/-- The two parts put together again. -/
theorem append_extract {w v : Nat} (x : BitVec (w + v)) : x.extractLsb' v w ++ x.extractLsb' 0 v = x := by
  ext i hi
  simp

@[simp] theorem opcodeField_append (op : Byte) (x : Half) : opcodeField (op ++ x) = op :=
  extract_append_high op x

@[simp] theorem operandField_append (op : Byte) (x : Half) : operandField (op ++ x) = x :=
  extract_append_low op x

theorem append_fields (w : CmdWord) : opcodeField w ++ operandField w = w :=
  append_extract (w := 8) (v := 16) w

/-- The decoder on a word put together from an opcode and an operand field. -/
theorem decode_append (op : Byte) (x : Half) : decode (op ++ x) = decodeFields op x := by
  simp [decode]

/-- A byte operand meets the "must be 0" bits of format B nowhere. -/
theorem byte_operand_masked (x : Byte) : x.zeroExtend 16 &&& ~~~ Format.operandMask .b = 0 := by
  ext i hi
  simp [Format.operandMask]
  decide +revert

/-- Every term is well-formed: the types of `Instr` are the checks. -/
theorem Instr.wellFormed_all (i : Instr) : i.wellFormed = true := by
  cases i with
  | csAdd x | txSetSrc x | txSetDst x | txSetCmd x | txPush x | rxPush x | rxRdBuf x | addrCls x =>
    simp only [Instr.wellFormed, Format.admits, byte_operand_masked, beq_self_eq_true]
  | txSetArg x => simp [Instr.wellFormed, Format.admits, Format.operandMask]
  | _ => rfl

/-- A format B row accepts its opcode with any byte operand. -/
theorem OpcodeRow.accepts_byte (m : String) (op x : Byte) :
    OpcodeRow.accepts ⟨m, .b, op ++ 0#16⟩ (op ++ x.zeroExtend 16) = true := by
  have h : (op ++ x.zeroExtend 16) &&& OpcodeRow.mask ⟨m, .b, op ++ 0#16⟩ = op ++ 0#16 := by
    show (op ++ x.zeroExtend 16) &&& (BitVec.allOnes 8 ++ ~~~ Format.operandMask .b) = op ++ 0#16
    rw [BitVec.and_append, byte_operand_masked, BitVec.and_allOnes]
    rfl
  simp [OpcodeRow.accepts, h]

/-- The format H row accepts its opcode with any operand. -/
theorem OpcodeRow.accepts_half (m : String) (op : Byte) (x : Half) :
    OpcodeRow.accepts ⟨m, .h, op ++ 0#16⟩ (op ++ x) = true := by
  have h : (op ++ x) &&& OpcodeRow.mask ⟨m, .h, op ++ 0#16⟩ = op ++ 0#16 := by
    show (op ++ x) &&& (BitVec.allOnes 8 ++ ~~~ Format.operandMask .h) = op ++ 0#16
    rw [BitVec.and_append, BitVec.and_allOnes]
    simp [Format.operandMask]
  simp [OpcodeRow.accepts, h]

end Sys2Proof
end

