-- ==== Sys2Proof/Laws/State.lean ====
section
/-!
SUPPORT. One lemma per field per update of State and of the two units, so that no later proof unfolds an update.
-/

namespace Sys2Proof.Machine

/-! ### `State.respond` -/

@[simp] theorem State.respond_cfg (s : State) (st : Status) (d : Half) : (s.respond st d).cfg = s.cfg := rfl
@[simp] theorem State.respond_csAcc (s : State) (st : Status) (d : Half) : (s.respond st d).csAcc = s.csAcc := rfl
@[simp] theorem State.respond_tx (s : State) (st : Status) (d : Half) : (s.respond st d).tx = s.tx := rfl
@[simp] theorem State.respond_rx (s : State) (st : Status) (d : Half) : (s.respond st d).rx = s.rx := rfl
@[simp] theorem State.respond_pending (s : State) (st : Status) (d : Half) :
    (s.respond st d).pending = s.pending := rfl
@[simp] theorem State.respond_responses (s : State) (st : Status) (d : Half) :
    (s.respond st d).responses = s.responses ++ [rspWord st d] := rfl

/-! ### `State.applyReset` -/

@[simp] theorem State.applyReset_cfg (s : State) : s.applyReset.cfg = s.cfg := rfl
@[simp] theorem State.applyReset_csAcc (s : State) : s.applyReset.csAcc = 0 := rfl
@[simp] theorem State.applyReset_tx (s : State) : s.applyReset.tx = s.tx.clear := rfl
@[simp] theorem State.applyReset_rx (s : State) : s.applyReset.rx = s.rx.rearm := rfl
@[simp] theorem State.applyReset_pending (s : State) : s.applyReset.pending = s.pending := rfl
@[simp] theorem State.applyReset_responses (s : State) : s.applyReset.responses = s.responses := rfl

/-! ### `State.issueFirst` -/

@[simp] theorem State.issueFirst_cfg (s : State) (w : CmdWord) : (s.issueFirst w).cfg = s.cfg := rfl
@[simp] theorem State.issueFirst_csAcc (s : State) (w : CmdWord) : (s.issueFirst w).csAcc = s.csAcc := rfl
@[simp] theorem State.issueFirst_tx (s : State) (w : CmdWord) : (s.issueFirst w).tx = s.tx := rfl
@[simp] theorem State.issueFirst_rx (s : State) (w : CmdWord) : (s.issueFirst w).rx = s.rx := rfl
@[simp] theorem State.issueFirst_pending (s : State) (w : CmdWord) :
    (s.issueFirst w).pending = .command w :: s.pending := rfl
@[simp] theorem State.issueFirst_responses (s : State) (w : CmdWord) :
    (s.issueFirst w).responses = s.responses := rfl

/-! ### The TX unit cleared -/

@[simp] theorem TxUnit.clear_src (t : TxUnit) : t.clear.src = 0 := rfl
@[simp] theorem TxUnit.clear_dst (t : TxUnit) : t.clear.dst = 0 := rfl
@[simp] theorem TxUnit.clear_cmd (t : TxUnit) : t.clear.cmd = 0 := rfl
@[simp] theorem TxUnit.clear_arg (t : TxUnit) : t.clear.arg = 0 := rfl
@[simp] theorem TxUnit.clear_len (t : TxUnit) : t.clear.len = 0 := rfl
@[simp] theorem TxUnit.clear_state (t : TxUnit) : t.clear.state = .load := rfl
@[simp] theorem TxUnit.clear_pos (t : TxUnit) : t.clear.pos = 0 := rfl
@[simp] theorem TxUnit.clear_acc (t : TxUnit) : t.clear.acc = 0 := rfl
@[simp] theorem TxUnit.clear_buf (t : TxUnit) : t.clear.buf = t.buf := rfl

/-! ### The RX unit re-armed -/

@[simp] theorem RxUnit.rearm_src (r : RxUnit) : r.rearm.src = 0 := rfl
@[simp] theorem RxUnit.rearm_dst (r : RxUnit) : r.rearm.dst = 0 := rfl
@[simp] theorem RxUnit.rearm_cmd (r : RxUnit) : r.rearm.cmd = 0 := rfl
@[simp] theorem RxUnit.rearm_arg (r : RxUnit) : r.rearm.arg = 0 := rfl
@[simp] theorem RxUnit.rearm_len (r : RxUnit) : r.rearm.len = 0 := rfl
@[simp] theorem RxUnit.rearm_state (r : RxUnit) : r.rearm.state = .recv := rfl
@[simp] theorem RxUnit.rearm_err (r : RxUnit) : r.rearm.err = .none := rfl
@[simp] theorem RxUnit.rearm_pos (r : RxUnit) : r.rearm.pos = 0 := rfl
@[simp] theorem RxUnit.rearm_acc (r : RxUnit) : r.rearm.acc = 0 := rfl
@[simp] theorem RxUnit.rearm_ck (r : RxUnit) : r.rearm.ck = 0 := rfl
@[simp] theorem RxUnit.rearm_buf (r : RxUnit) : r.rearm.buf = r.buf := rfl

/-! ### A frame error raised -/

@[simp] theorem RxUnit.raise_src (r : RxUnit) (e : RxErr) : (r.raise e).src = r.src := rfl
@[simp] theorem RxUnit.raise_dst (r : RxUnit) (e : RxErr) : (r.raise e).dst = r.dst := rfl
@[simp] theorem RxUnit.raise_cmd (r : RxUnit) (e : RxErr) : (r.raise e).cmd = r.cmd := rfl
@[simp] theorem RxUnit.raise_arg (r : RxUnit) (e : RxErr) : (r.raise e).arg = r.arg := rfl
@[simp] theorem RxUnit.raise_len (r : RxUnit) (e : RxErr) : (r.raise e).len = r.len := rfl
@[simp] theorem RxUnit.raise_state (r : RxUnit) (e : RxErr) : (r.raise e).state = .err := rfl
@[simp] theorem RxUnit.raise_err (r : RxUnit) (e : RxErr) : (r.raise e).err = e := rfl
@[simp] theorem RxUnit.raise_pos (r : RxUnit) (e : RxErr) : (r.raise e).pos = r.pos := rfl
@[simp] theorem RxUnit.raise_acc (r : RxUnit) (e : RxErr) : (r.raise e).acc = r.acc := rfl
@[simp] theorem RxUnit.raise_ck (r : RxUnit) (e : RxErr) : (r.raise e).ck = r.ck := rfl
@[simp] theorem RxUnit.raise_buf (r : RxUnit) (e : RxErr) : (r.raise e).buf = r.buf := rfl

end Sys2Proof.Machine
end

