-- ==== Sys2Proof/Laws/Ops.lean ====
section
/-!
SUPPORT. One lemma for each shared operation that says once everything it can do: buffer memory, completing and
refusing, the check of the loading operations, taking the next pending event, `TX_POP` and `RX_PUSH` by case.
-/

namespace Sys2Proof.Machine

/-! ### Buffer memory -/

theorem Memory.readAt_writeAt (m : Memory) (i j : Nat) (b : Byte) :
    Memory.readAt (Memory.writeAt m i b) j = if j = i then some b else Memory.readAt m j := by
  induction m with
  | nil => simp [Memory.writeAt, Memory.readAt]
  | cons c m ih =>
    obtain ⟨k, v⟩ := c
    simp only [Memory.writeAt]
    split_ifs with h1 h2 <;> simp_all [Memory.readAt]

/-- Reading after writing: the byte written at its index, every other byte as before (R42). -/
theorem Memory.read_write (m : Memory) (i j : Byte) (b : Byte) :
    (m.write i b).read j = if j = i then some b else m.read j := by
  simp [Memory.read, Memory.write, Memory.readAt_writeAt, BitVec.toNat_inj]

theorem Memory.mem_writeAt {m : Memory} {i : Nat} {b : Byte} {c : Host.Cell}
    (h : c ∈ Memory.writeAt m i b) : c = (i, b) ∨ c ∈ m := by
  induction m with
  | nil => simpa [Memory.writeAt] using h
  | cons d m ih =>
    obtain ⟨k, v⟩ := d
    simp only [Memory.writeAt] at h
    split_ifs at h with h1 h2
    · simpa using h
    · simp only [List.mem_cons] at h ⊢
      tauto
    · simp only [List.mem_cons] at h ⊢
      rcases h with h | h
      · tauto
      · have := ih h
        tauto

theorem Memory.writeAt_sorted {m : Memory} (i : Nat) (b : Byte)
    (h : m.Pairwise (fun a b => a.1 < b.1)) :
    (Memory.writeAt m i b).Pairwise (fun a b => a.1 < b.1) := by
  induction m with
  | nil => simp [Memory.writeAt]
  | cons d m ih =>
    obtain ⟨k, v⟩ := d
    obtain ⟨hk, hm⟩ := List.pairwise_cons.1 h
    simp only [Memory.writeAt]
    split_ifs with h1 h2
    · refine List.pairwise_cons.2 ⟨fun c hc => ?_, h⟩
      rcases List.mem_cons.1 hc with rfl | hc
      · exact h1
      · exact lt_trans h1 (hk c hc)
    · exact List.pairwise_cons.2 ⟨fun c hc => h2 ▸ hk c hc, hm⟩
    · refine List.pairwise_cons.2 ⟨fun c hc => ?_, ih hm⟩
      rcases Memory.mem_writeAt hc with rfl | hc
      · show k < i
        omega
      · exact hk c hc

/-- A write keeps the canonical form. -/
theorem Memory.write_wf {m : Memory} (h : m.wf) (i b : Byte) : (m.write i b).wf := by
  refine ⟨Memory.writeAt_sorted _ _ h.1, fun c hc => ?_⟩
  rcases Memory.mem_writeAt hc with rfl | hc
  · exact i.isLt
  · exact h.2 c hc

theorem Memory.empty_wf : Memory.wf [] := ⟨List.Pairwise.nil, by simp⟩

theorem Memory.filled_mono {m : Memory} {n k : Nat} (h : m.filled n) (hk : k ≤ n) : m.filled k :=
  fun i hi => h i (lt_of_lt_of_le hi hk)

/-- Appending a byte at the first unwritten index: the filled part grows by one. -/
theorem Memory.filled_writeAt {m : Memory} {n : Nat} (h : m.filled n) (b : Byte) :
    Memory.filled (Memory.writeAt m n b) (n + 1) := by
  intro i hi
  rw [Memory.readAt_writeAt]
  split_ifs with hin
  · rfl
  · exact h i (by omega)

theorem Memory.slice_congr {m m' : Memory} {n : Nat} (h : ∀ i < n, m.readAt i = m'.readAt i) :
    m.slice n = m'.slice n := by
  unfold Memory.slice
  refine List.filterMap_congr fun i hi => h i (by simpa using hi)

theorem Memory.slice_zero (m : Memory) : m.slice 0 = [] := rfl

theorem Memory.slice_succ {m : Memory} {n : Nat} {b : Byte} (h : m.readAt n = some b) :
    m.slice (n + 1) = m.slice n ++ [b] := by
  simp [Memory.slice, List.range_succ, h]

theorem Memory.slice_writeAt (m : Memory) (n : Nat) (b : Byte) :
    Memory.slice (Memory.writeAt m n b) (n + 1) = m.slice n ++ [b] := by
  rw [Memory.slice_succ (b := b) (by simp [Memory.readAt_writeAt])]
  congr 1
  refine Memory.slice_congr fun i hi => ?_
  rw [Memory.readAt_writeAt, if_neg (by omega)]

theorem Memory.slice_length {m : Memory} {n : Nat} (h : m.filled n) : (m.slice n).length = n := by
  induction n with
  | zero => rfl
  | succ n ih =>
    obtain ⟨b, hb⟩ := Option.isSome_iff_exists.1 (h n (by omega))
    simp [Memory.slice_succ hb, ih (Memory.filled_mono h (by omega))]

theorem Memory.slice_getElem? {m : Memory} {n i : Nat} (h : m.filled n) (hi : i < n) :
    (m.slice n)[i]? = m.readAt i := by
  induction n with
  | zero => omega
  | succ n ih =>
    have hn : m.filled n := Memory.filled_mono h (by omega)
    obtain ⟨b, hb⟩ := Option.isSome_iff_exists.1 (h n (by omega))
    rw [Memory.slice_succ hb]
    rcases Nat.lt_or_ge i n with h1 | h1
    · rw [List.getElem?_append_left (by simpa [Memory.slice_length hn] using h1), ih hn h1]
    · have : i = n := by omega
      subst this
      rw [List.getElem?_append_right (by simp [Memory.slice_length hn])]
      simp [Memory.slice_length hn, hb]

/-! ### Completing and refusing -/

theorem complete_eq_next {d : Half} {s t : State} : complete d s = .next t ↔ t = s.respond .ok d := by
  simp [complete, eq_comm]

theorem refuse_eq_next {st : Status} {s t : State} : refuse st s = .next t ↔ t = s.respond st 0 := by
  simp [refuse, eq_comm]

@[simp] theorem whileLoading_load {s : State} (h : s.tx.state = .load) (r : Result) : whileLoading s r = r := by
  simp [whileLoading, h]

@[simp] theorem whileLoading_emit {s : State} (h : s.tx.state = .emit) (r : Result) :
    whileLoading s r = refuse .badState s := by
  simp [whileLoading, h]

/-- A loading operation either runs in `LOAD` or is refused with `BAD_STATE` in `EMIT`. -/
theorem whileLoading_cases {s t : State} {r : Result} (h : whileLoading s r = .next t) :
    (s.tx.state = .load ∧ r = .next t) ∨ (s.tx.state = .emit ∧ t = s.respond .badState 0) := by
  cases hs : s.tx.state with
  | load => exact .inl ⟨rfl, by simpa [hs] using h⟩
  | emit => exact .inr ⟨rfl, by simpa [hs, refuse_eq_next] using h⟩

/-! ### The command port -/

theorem State.take_nil {s : State} (h : s.pending = []) : s.take = none := by simp [State.take, h]

theorem State.take_cons {s : State} {e : PortEvent} {rest : List PortEvent} (h : s.pending = e :: rest) :
    s.take = some (e, { s with pending := rest }) := by simp [State.take, h]

/-! ### `TX_POP` and `RX_PUSH` by case -/

/-- Everything an accepted or refused `TX_POP` can do. -/
theorem execTxPop_cases {s t : State} (h : execTxPop s = .next t) :
    (s.tx.state = .load ∧ t = s.respond .badState 0)
    ∨ (s.tx.state = .emit ∧ s.tx.pos.toNat < s.cfg.contentLen s.tx.len.toNat ∧
        ∃ b, txByte s.cfg s.tx s.tx.pos.toNat = some b ∧
          t = State.respond { s with tx := { s.tx with acc := accAdd s.tx.acc b, pos := s.tx.pos + 1 } } .ok (zext b))
    ∨ (s.tx.state = .emit ∧ s.tx.pos.toNat = s.cfg.contentLen s.tx.len.toNat ∧
        t = State.respond { s with tx := { s.tx with pos := s.tx.pos + 1 } } .ok
          (zext (lowByte (accChecksum s.tx.acc))))
    ∨ (s.tx.state = .emit ∧ s.cfg.contentLen s.tx.len.toNat < s.tx.pos.toNat ∧
        t = State.respond { s with tx := { s.tx with state := .load, pos := 0 } } .ok
          (joinBytes 1 (highByte (accChecksum s.tx.acc)))) := by
  unfold execTxPop at h
  cases hs : s.tx.state with
  | load => exact .inl ⟨rfl, by simpa [hs, refuse_eq_next] using h⟩
  | emit =>
    simp only [hs] at h
    split_ifs at h with h1 h2
    · unfold popContent at h
      cases hb : txByte s.cfg s.tx s.tx.pos.toNat with
      | none => simp [hb] at h
      | some b => exact .inr (.inl ⟨rfl, h1, b, rfl, by simpa [hb, complete_eq_next] using h⟩)
    · exact .inr (.inr (.inl ⟨rfl, h2, by simpa [popChecksumLow, complete_eq_next] using h⟩))
    · exact .inr (.inr (.inr ⟨rfl, by omega, by simpa [popLast, complete_eq_next] using h⟩))

/-- Everything an accepted or refused `RX_PUSH` can do. -/
theorem execRxPush_cases {b : Byte} {s t : State} (h : execRxPush b s = .next t) :
    (s.rx.state ≠ .recv ∧ t = s.respond .badState 0)
    ∨ (s.rx.state = .recv ∧ ∃ ph, rxPhase s.cfg s.rx.len s.rx.pos.toNat = some ph ∧
        t = State.respond { s with rx := s.rx.push s.cfg ph b } .ok (rxStatusWord (s.rx.push s.cfg ph b))) := by
  unfold execRxPush at h
  cases hs : s.rx.state with
  | recv =>
    simp only [hs] at h
    cases hp : rxPhase s.cfg s.rx.len s.rx.pos.toNat with
    | none => simp [hp] at h
    | some ph => exact .inr ⟨rfl, ph, rfl, by simpa [hp, complete_eq_next] using h⟩
  | done => exact .inl ⟨by simp, by simpa [hs, refuse_eq_next] using h⟩
  | err => exact .inl ⟨by simp, by simpa [hs, refuse_eq_next] using h⟩

/-- `RX_RDBUF` refuses an index at or past `RX_CNT` and otherwise delivers the byte, changing nothing. -/
theorem execRxRdBuf_cases {i : Byte} {s t : State} (h : execRxRdBuf i s = .next t) :
    (s.rx.cnt s.cfg ≤ i.toNat ∧ t = s.respond .badOperand 0)
    ∨ (i.toNat < s.rx.cnt s.cfg ∧ ∃ b, s.rx.buf.read i = some b ∧ t = s.respond .ok (zext b)) := by
  unfold execRxRdBuf at h
  split_ifs at h with h1
  · exact .inl ⟨h1, refuse_eq_next.1 h⟩
  · cases hb : s.rx.buf.read i with
    | none => simp [hb] at h
    | some b => exact .inr ⟨by omega, b, rfl, by simpa [hb, complete_eq_next] using h⟩

end Sys2Proof.Machine
end

