-- ==== Sys2Proof/Laws/PerInstr.lean ====
section
/-!
SUPPORT. Families of facts with one lemma per operation. `EncodedWordMatchesItsRow`: the encoded word matches a row of
the opcode table (30_encoding.md R63).
-/

namespace Sys2Proof.Laws.EncodedWordMatchesItsRow

/-- The encoded word of an operation is accepted by some row of the opcode table. -/
def Statement (i : Instr) : Prop := ∃ r ∈ opcodeTable, r.accepts (encode i) = true

theorem csClr : Statement .csClr := ⟨⟨"CS_CLR", .z, 0x100000⟩, by decide, by decide⟩
theorem csAdd (imm8 : Byte) : Statement (.csAdd imm8) :=
  ⟨⟨"CS_ADD", .b, 0x110000⟩, by decide, OpcodeRow.accepts_byte _ 0x11 imm8⟩
theorem csGet : Statement .csGet := ⟨⟨"CS_GET", .z, 0x120000⟩, by decide, by decide⟩
theorem txClr : Statement .txClr := ⟨⟨"TX_CLR", .z, 0x200000⟩, by decide, by decide⟩
theorem txSetSrc (imm8 : Byte) : Statement (.txSetSrc imm8) :=
  ⟨⟨"TX_SETSRC", .b, 0x210000⟩, by decide, OpcodeRow.accepts_byte _ 0x21 imm8⟩
theorem txSetDst (imm8 : Byte) : Statement (.txSetDst imm8) :=
  ⟨⟨"TX_SETDST", .b, 0x220000⟩, by decide, OpcodeRow.accepts_byte _ 0x22 imm8⟩
theorem txSetCmd (imm8 : Byte) : Statement (.txSetCmd imm8) :=
  ⟨⟨"TX_SETCMD", .b, 0x230000⟩, by decide, OpcodeRow.accepts_byte _ 0x23 imm8⟩
theorem txSetArg (imm16 : Half) : Statement (.txSetArg imm16) :=
  ⟨⟨"TX_SETARG", .h, 0x240000⟩, by decide, OpcodeRow.accepts_half _ 0x24 imm16⟩
theorem txPush (imm8 : Byte) : Statement (.txPush imm8) :=
  ⟨⟨"TX_PUSH", .b, 0x250000⟩, by decide, OpcodeRow.accepts_byte _ 0x25 imm8⟩
theorem txStart : Statement .txStart := ⟨⟨"TX_START", .z, 0x260000⟩, by decide, by decide⟩
theorem txPop : Statement .txPop := ⟨⟨"TX_POP", .z, 0x270000⟩, by decide, by decide⟩
theorem txStat : Statement .txStat := ⟨⟨"TX_STAT", .z, 0x280000⟩, by decide, by decide⟩
theorem txGetLen : Statement .txGetLen := ⟨⟨"TX_GETLEN", .z, 0x290000⟩, by decide, by decide⟩
theorem rxClr : Statement .rxClr := ⟨⟨"RX_CLR", .z, 0x300000⟩, by decide, by decide⟩
theorem rxPush (imm8 : Byte) : Statement (.rxPush imm8) :=
  ⟨⟨"RX_PUSH", .b, 0x310000⟩, by decide, OpcodeRow.accepts_byte _ 0x31 imm8⟩
theorem rxEnd : Statement .rxEnd := ⟨⟨"RX_END", .z, 0x320000⟩, by decide, by decide⟩
theorem rxStat : Statement .rxStat := ⟨⟨"RX_STAT", .z, 0x330000⟩, by decide, by decide⟩
theorem rxGetSrc : Statement .rxGetSrc := ⟨⟨"RX_GETSRC", .z, 0x340000⟩, by decide, by decide⟩
theorem rxGetDst : Statement .rxGetDst := ⟨⟨"RX_GETDST", .z, 0x350000⟩, by decide, by decide⟩
theorem rxGetCmd : Statement .rxGetCmd := ⟨⟨"RX_GETCMD", .z, 0x360000⟩, by decide, by decide⟩
theorem rxGetArg : Statement .rxGetArg := ⟨⟨"RX_GETARG", .z, 0x370000⟩, by decide, by decide⟩
theorem rxGetLen : Statement .rxGetLen := ⟨⟨"RX_GETLEN", .z, 0x380000⟩, by decide, by decide⟩
theorem rxRdBuf (imm8 : Byte) : Statement (.rxRdBuf imm8) :=
  ⟨⟨"RX_RDBUF", .b, 0x390000⟩, by decide, OpcodeRow.accepts_byte _ 0x39 imm8⟩
theorem rxGetCk : Statement .rxGetCk := ⟨⟨"RX_GETCK", .z, 0x3A0000⟩, by decide, by decide⟩
theorem rxGetCalc : Statement .rxGetCalc := ⟨⟨"RX_GETCALC", .z, 0x3B0000⟩, by decide, by decide⟩
theorem addrCls (imm8 : Byte) : Statement (.addrCls imm8) :=
  ⟨⟨"ADDR_CLS", .b, 0x400000⟩, by decide, OpcodeRow.accepts_byte _ 0x40 imm8⟩
theorem cfgGet : Statement .cfgGet := ⟨⟨"CFG_GET", .z, 0x410000⟩, by decide, by decide⟩

end Sys2Proof.Laws.EncodedWordMatchesItsRow
end

