-- ==== Sys2Proof/Laws/Words.lean ====
section
/-!
SUPPORT. The values of the byte and half-word operations as natural numbers: extension, the two bytes of a half,
joining, the running sum and its complement (00_scope.md R6, 40_checksum.md R81).
-/

namespace Sys2Proof.Machine

@[simp] theorem zext_toNat (b : Byte) : (zext b).toNat = b.toNat := by
  have := b.isLt
  simp [zext]
  omega

@[simp] theorem lowByte_toNat (v : Half) : (lowByte v).toNat = v.toNat % 256 := by simp [lowByte]

@[simp] theorem highByte_toNat (v : Half) : (highByte v).toNat = v.toNat / 256 := by
  have := v.isLt
  simp only [highByte, BitVec.extractLsb'_toNat, Nat.shiftRight_eq_div_pow]
  omega

@[simp] theorem joinBytes_toNat (hi lo : Byte) : (joinBytes hi lo).toNat = 256 * hi.toNat + lo.toNat := by
  simp only [joinBytes, BitVec.toNat_append]
  rw [← Nat.shiftLeft_add_eq_or_of_lt lo.isLt, Nat.shiftLeft_eq]
  ring

theorem joinBytes_high_low (v : Half) : joinBytes (highByte v) (lowByte v) = v := by
  apply BitVec.eq_of_toNat_eq
  rw [joinBytes_toNat, highByte_toNat, lowByte_toNat]
  omega

@[simp] theorem highByte_joinBytes (hi lo : Byte) : highByte (joinBytes hi lo) = hi := by
  apply BitVec.eq_of_toNat_eq
  have := lo.isLt
  rw [highByte_toNat, joinBytes_toNat]
  omega

@[simp] theorem lowByte_joinBytes (hi lo : Byte) : lowByte (joinBytes hi lo) = lo := by
  apply BitVec.eq_of_toNat_eq
  have := lo.isLt
  rw [lowByte_toNat, joinBytes_toNat]
  omega

@[simp] theorem highByte_zext (b : Byte) : highByte (zext b) = 0 := by
  apply BitVec.eq_of_toNat_eq
  have := b.isLt
  rw [highByte_toNat, zext_toNat]
  simp
  omega

@[simp] theorem lowByte_zext (b : Byte) : lowByte (zext b) = b := by
  apply BitVec.eq_of_toNat_eq
  have := b.isLt
  rw [lowByte_toNat, zext_toNat]
  omega

@[simp] theorem accAdd_toNat (a : Half) (b : Byte) : (accAdd a b).toNat = (a.toNat + b.toNat) % 65536 := by
  have := b.isLt
  simp [accAdd]

@[simp] theorem accChecksum_toNat (a : Half) : (accChecksum a).toNat = 65535 - a.toNat := by
  have h : accChecksum a = ~~~ a := by
    rw [accChecksum, show (0xFFFF : Half) = BitVec.allOnes 16 from rfl, BitVec.xor_allOnes]
  rw [h, BitVec.toNat_not]

/-- A response word determines its status and its data. -/
theorem rspWord_inj {st st' : Status} {d d' : Half} : rspWord st d = rspWord st' d' ↔ st = st' ∧ d = d' := by
  constructor
  · intro h
    have hc := congrArg (BitVec.extractLsb' 16 8) h
    have hd := congrArg (BitVec.extractLsb' 0 16) h
    rw [rspWord, rspWord, extract_append_high, extract_append_high] at hc
    rw [rspWord, rspWord, extract_append_low, extract_append_low] at hd
    refine ⟨?_, hd⟩
    cases st <;> cases st' <;> simp_all [Status.code]
  · rintro ⟨rfl, rfl⟩
    rfl

end Sys2Proof.Machine

namespace Sys2Proof

open Sys2Proof.Machine

/-- What fits the wire field of the argument (R97). -/
theorem ArgBytes.fits_iff (a : ArgBytes) (x : Half) : a.fits x = true ↔ a = .two ∨ x.toNat < 256 := by
  have hx := highByte_toNat x
  cases a with
  | one =>
    simp only [ArgBytes.fits, reduceCtorEq, false_or, beq_iff_eq]
    constructor
    · intro h
      rw [highByte, h] at hx
      simp at hx
      omega
    · intro h
      apply BitVec.eq_of_toNat_eq
      show (highByte x).toNat = 0
      omega
  | two => simp [ArgBytes.fits]

end Sys2Proof
end

