-- ==== Sys2Proof/Tests/Slice0.lean ====
section
/-!
SUPPORT. Tests. Expected results are the spec's own: the examples of the operation rules and the frames of
95_test_vectors.md. The last section shows, for each obligation that has hypotheses, states and operands that meet
them, at the boundaries of its clauses.
-/

open Sys2Proof Sys2Proof.Machine Sys2Proof.Certificates

namespace Sys2Proof.Tests

/-! ### Well-formedness: ill-formed terms are refused -/

/-- Format Z refuses any operand bit (R63). -/
theorem test_format_z_refuses_an_operand : Format.z.admits 0x0001 = false := by decide

/-- Format B refuses a bit of the high byte and admits the low byte (R63). -/
theorem test_format_b_refuses_the_high_byte :
    Format.b.admits 0x0100 = false ∧ Format.b.admits 0x00FF = true := by decide

/-- Format H admits everything (R63). -/
theorem test_format_h_admits_every_operand : Format.h.admits 0xFFFF = true := by decide

/-- A Packet with too wide an argument is refused when `A = 1` and admitted when `A = 2` (R11). -/
theorem test_packet_refuses_a_wide_argument :
    Packet.wellFormed ⟨.one, 255⟩ ⟨0, 0, 0, 0x0100, []⟩ = false ∧
    Packet.wellFormed ⟨.two, 255⟩ ⟨0, 0, 0, 0x0100, []⟩ = true := by decide

/-- A Packet with too long a payload is refused (R11). -/
theorem test_packet_refuses_a_long_payload :
    Packet.wellFormed ⟨.one, 1⟩ ⟨0, 0, 0, 0, [1, 2]⟩ = false ∧
    Packet.wellFormed ⟨.one, 2⟩ ⟨0, 0, 0, 0, [1, 2]⟩ = true := by decide

/-! ### Decoding: words written out from R62, R63 and R65 -/

theorem test_decode_cs_words :
    decode 0b00010000_0000000000000000 = .ok .csClr ∧
    decode 0b00010001_0000000011111111 = .ok (.csAdd 0xFF) ∧
    decode 0b00010010_0000000000000000 = .ok .csGet := by decide

theorem test_decode_tx_words :
    decode 0b00100000_0000000000000000 = .ok .txClr ∧
    decode 0b00100001_0000000000111101 = .ok (.txSetSrc 0x3D) ∧
    decode 0b00100010_0000000000100000 = .ok (.txSetDst 0x20) ∧
    decode 0b00100011_0000000000000001 = .ok (.txSetCmd 0x01) ∧
    decode 0b00100100_0001001000110100 = .ok (.txSetArg 0x1234) ∧
    decode 0b00100101_0000000010101010 = .ok (.txPush 0xAA) ∧
    decode 0b00100110_0000000000000000 = .ok .txStart ∧
    decode 0b00100111_0000000000000000 = .ok .txPop ∧
    decode 0b00101000_0000000000000000 = .ok .txStat ∧
    decode 0b00101001_0000000000000000 = .ok .txGetLen := by decide

theorem test_decode_rx_words :
    decode 0b00110000_0000000000000000 = .ok .rxClr ∧
    decode 0b00110001_0000000000111101 = .ok (.rxPush 0x3D) ∧
    decode 0b00110010_0000000000000000 = .ok .rxEnd ∧
    decode 0b00110011_0000000000000000 = .ok .rxStat ∧
    decode 0b00110100_0000000000000000 = .ok .rxGetSrc ∧
    decode 0b00110101_0000000000000000 = .ok .rxGetDst ∧
    decode 0b00110110_0000000000000000 = .ok .rxGetCmd ∧
    decode 0b00110111_0000000000000000 = .ok .rxGetArg ∧
    decode 0b00111000_0000000000000000 = .ok .rxGetLen ∧
    decode 0b00111001_0000000000000001 = .ok (.rxRdBuf 1) ∧
    decode 0b00111010_0000000000000000 = .ok .rxGetCk ∧
    decode 0b00111011_0000000000000000 = .ok .rxGetCalc := by decide

theorem test_decode_system_words :
    decode 0b01000000_0000000000100010 = .ok (.addrCls 0x22) ∧
    decode 0b01000001_0000000000000000 = .ok .cfgGet := by decide

/-- One word for each of the three cases of R69. -/
theorem test_decode_rejects_by_name :
    decode 0x130000 = .error (.unassignedOpcode 0x13) ∧
    decode 0x100001 = .error (.nonzeroOperand 0x0001) ∧
    decode 0x250100 = .error (.nonzeroHighByte 0x0100) := by decide

/-- R94 and R97 give these command words. -/
theorem test_encode_gives_the_words_of_the_spec :
    encode (.txSetSrc 0x3D) = 0x21003D ∧ encode (.txSetArg 0x1234) = 0x241234 ∧ encode .cfgGet = 0x410000 := by decide

theorem test_decodeTableWord_reads_a_row :
    decodeTableWord 24 0x11003D = some (.csAdd 0x3D) ∧ decodeTableWord 24 0x420000 = none := by decide

/-! ### Single steps -/

/-- The operation answers `r` and leaves a state of which `p` holds. -/
def answers (o : Result) (r : RspWord) (p : State → Bool) : Bool :=
  match o with
  | .next t => t.responses.getLast? == some r && p t
  | .fault _ => false
  | .refused _ => false

/-- The operation completes. -/
def completes (o : Result) : Bool :=
  match o with
  | .next _ => true
  | .fault _ => false
  | .refused _ => false

/-- The operation faults. -/
def faults (o : Result) (f : Fault) : Bool :=
  match o with
  | .fault g => f == g
  | .next _ => false
  | .refused _ => false

/-- The default instance with a given CS sum. -/
def summing (a : Half) : State := { State.reset with csAcc := a }

/-- The default instance with the Packet of R100's example loaded: 3D 20 01 10, payload 02. -/
def loaded : State :=
  { State.reset with
    tx := { State.reset.tx with src := 0x3D, dst := 0x20, cmd := 0x01, arg := 0x10, len := 1, buf := [(0, 0x02)] } }

/-- The same Packet being emitted, at a position and with the sum of the bytes before it. -/
def emitting (p : Pos) (a : Half) : State := { loaded with tx := { loaded.tx with state := .emit, pos := p, acc := a } }

/-- The default instance with the header `20 3D 01 10 02` of R123's frame taken, at a given position with given sum,
checksum register and buffer. -/
def receiving (p : Pos) (a ck : Half) (m : Memory) : State :=
  { State.reset with
    rx := { State.reset.rx with
      src := 0x20, dst := 0x3D, cmd := 0x01, arg := 0x10, len := 2, pos := p, acc := a, ck := ck, buf := m } }

/-- R123's frame `20 3D 01 10 02 AA 55 90 FE`, all but its last byte taken. -/
def almostReceived : State := receiving 8 0x016F 0x0090 [(0, 0xAA), (1, 0x55)]

/-- The same frame received. -/
def received : State :=
  { almostReceived with rx := { almostReceived.rx with state := .done, pos := 9, ck := 0xFE90 } }

/-- An instance with `A = 2` and `PAYLOAD_MAX = 16`, R143's example. -/
def wide : State := State.powerUp ⟨.two, 16⟩

/-- An instance at a position of its header. -/
def headerAt (s : State) (p : Pos) : State := { s with rx := { s.rx with pos := p } }

theorem test_csClr : answers (exec .csClr (summing 0x1234)) 0x000000 (·.csAcc == 0) := by decide

theorem test_csAdd_wraps : answers (exec (.csAdd 0xFF) (summing 0xFF80)) 0x000000 (·.csAcc == 0x007F) := by decide

theorem test_csAdd : answers (exec (.csAdd 0x02) (summing 0x006E)) 0x000000 (·.csAcc == 0x0070) := by decide

theorem test_csGet : answers (exec .csGet (summing 0x006E)) 0x00FF91 (·.csAcc == 0x006E) := by decide

theorem test_txClr :
    answers (exec .txClr (emitting 3 0x5E)) 0x000000
      (fun t => t.tx == { TxUnit.atReset [(0, 0x02)] with len := 0 }) := by decide

theorem test_txSetSrc : answers (exec (.txSetSrc 0x3D) State.reset) 0x000000 (·.tx.src == 0x3D) := by decide

theorem test_txSetSrc_refused : answers (exec (.txSetSrc 7) (emitting 3 0x5E)) 0x030000 (·.tx.src == 0x3D) := by decide

theorem test_txSetDst : answers (exec (.txSetDst 0x20) State.reset) 0x000000 (·.tx.dst == 0x20) := by decide

theorem test_txSetCmd : answers (exec (.txSetCmd 0x01) State.reset) 0x000000 (·.tx.cmd == 0x01) := by decide

theorem test_txSetArg_wide : answers (exec (.txSetArg 0x1234) wide) 0x000000 (·.tx.arg == 0x1234) := by decide

/-- R157: `TX_SETARG 0x1234` on an `A = 1` instance is `BAD_OPERAND` in `LOAD`, `BAD_STATE` in `EMIT`. -/
theorem test_txSetArg_refused :
    answers (exec (.txSetArg 0x1234) loaded) 0x020000 (·.tx.arg == 0x10) ∧
    answers (exec (.txSetArg 0x1234) (emitting 0 0)) 0x030000 (·.tx.arg == 0x10) := by decide

theorem test_txPush :
    answers (exec (.txPush 0x55) loaded) 0x000002 (fun t => t.tx.len == 2 && t.tx.buf == [(0, 0x02), (1, 0x55)]) := by
  decide

theorem test_txPush_full : answers (exec (.txPush 1) (State.powerUp ⟨.one, 0⟩)) 0x040000 (·.tx.len == 0) := by decide

theorem test_txStart :
    answers (exec .txStart loaded) 0x000000 (fun t => t.tx.state == .emit && t.tx.pos == 0 && t.tx.len == 1) := by decide

/-- R100's example: the payload byte, then the checksum `8E FF` with `LAST`. -/
theorem test_txPop_payload :
    answers (exec .txPop (emitting 5 0x6F)) 0x000002 (fun t => t.tx.pos == 6 && t.tx.acc == 0x71) := by decide

theorem test_txPop_checksum :
    answers (exec .txPop (emitting 6 0x71)) 0x00008E (·.tx.pos == 7) ∧
    answers (exec .txPop (emitting 7 0x71)) 0x0001FF (fun t => t.tx.state == .load && t.tx.pos == 0) := by decide

theorem test_txStat : answers (exec .txStat (emitting 3 0x5E)) 0x004003 (·.tx.pos == 3) := by decide

theorem test_txGetLen : answers (exec .txGetLen loaded) 0x000001 (·.tx.len == 1) := by decide

theorem test_rxClr : answers (exec .rxClr received) 0x000000 (fun t => t.rx == RxUnit.atReset received.rx.buf) := by
  decide

/-- The last byte of a good frame gives `DONE` (R116; R123's frame). -/
theorem test_rxPush_done : answers (exec (.rxPush 0xFE) almostReceived) 0x004009 (fun t => t.rx == received.rx) := by
  decide

/-- A wrong last byte gives a checksum error, an oversize length byte a framing error (R116). -/
theorem test_rxPush_errors :
    answers (exec (.rxPush 0xFF) almostReceived) 0x009009 (·.rx.ck == 0xFF90) ∧
    answers (exec (.rxPush 17) (headerAt wide 5)) 0x00A006 (·.rx.len == 17) := by decide

/-- R117's example: two bytes taken, then the end. -/
theorem test_rxEnd :
    answers (exec .rxEnd (headerAt State.reset 2)) 0x00A002 (·.rx.err == .framing) ∧
    answers (exec .rxEnd received) 0x004009 (·.rx == received.rx) := by decide

theorem test_rxStat : answers (exec .rxStat received) 0x004009 (fun _ => true) := by decide

theorem test_rxGetSrc : answers (exec .rxGetSrc received) 0x000020 (fun _ => true) := by decide

theorem test_rxGetDst : answers (exec .rxGetDst received) 0x00003D (fun _ => true) := by decide

theorem test_rxGetCmd : answers (exec .rxGetCmd received) 0x000001 (fun _ => true) := by decide

/-- R122's example: the high byte of a two-byte argument joins the low byte. -/
theorem test_rxGetArg :
    answers (exec .rxGetArg { wide with rx := { wide.rx with arg := 0x1234 } }) 0x001234 (fun _ => true) ∧
    answers (exec (.rxPush 0x12) { wide with rx := { wide.rx with arg := 0x34, pos := 4 } }) 0x000005
      (·.rx.arg == 0x1234) := by decide

theorem test_rxGetLen : answers (exec .rxGetLen received) 0x000002 (fun _ => true) := by decide

/-- R124's example. -/
theorem test_rxRdBuf :
    answers (exec (.rxRdBuf 1) received) 0x000055 (fun _ => true) ∧
    answers (exec (.rxRdBuf 2) received) 0x020000 (fun _ => true) := by decide

theorem test_rxGetCk : answers (exec .rxGetCk received) 0x00FE90 (fun _ => true) := by decide

/-- In `DONE` the computed checksum equals the received one (R126). -/
theorem test_rxGetCalc : answers (exec .rxGetCalc received) 0x00FE90 (fun _ => true) := by decide

/-- R142's example. -/
theorem test_addrCls :
    answers (exec (.addrCls 0x3D) State.reset) 0x000006 (fun _ => true) ∧
    answers (exec (.addrCls 0x3E) State.reset) 0x000000 (fun _ => true) := by decide

/-- R143's two examples. -/
theorem test_cfgGet :
    answers (exec .cfgGet State.reset) 0x00FF01 (fun _ => true) ∧
    answers (exec .cfgGet wide) 0x001002 (fun _ => true) := by decide

/-- `step` takes the word that `withFetchWord` issues, as the first operation after reset. -/
theorem test_step_runs_the_word_issued :
    answers (step (State.reset.withFetchWord 24 0x11003D)) 0x000000
      (fun t => t.csAcc == 0x3D && t.pending == []) := by decide

/-- An illegal word is answered with `ILLEGAL_OP` and changes nothing else (R69). -/
theorem test_step_refuses_an_illegal_word :
    answers (step (received.withFetchWord 24 0x31FFFF)) 0x010000 (·.rx == received.rx) := by decide

/-- The reset event (R175, R176): registers at reset, buffers as they were, no response. -/
theorem test_step_reset_event :
    step { received with pending := [.reset] } = .next { State.reset with rx := RxUnit.atReset received.rx.buf } := rfl

/-- `Encode` on R100's example. -/
theorem test_encode_example :
    encodeFrame {} ⟨0x3D, 0x20, 0x01, 0x10, [0x02]⟩ = some [0x3D, 0x20, 0x01, 0x10, 0x01, 0x02, 0x8E, 0xFF] := by
  decide

/-- `Decode` on R123's frame with a byte after it, on R126's corrupt frame and on nothing (R111). -/
theorem test_decode_example :
    decodeFrame {} [0x20, 0x3D, 0x01, 0x10, 0x02, 0xAA, 0x55, 0x90, 0xFE, 0x77] =
      .ok ⟨0x20, 0x3D, 0x01, 0x10, [0xAA, 0x55]⟩ ∧
    decodeFrame {} [0x3D, 0x20, 0x01, 0x10, 0x00, 0x90, 0xFF] = .error .checksum ∧
    decodeFrame {} [] = .error .framing := by decide

/-- R141's and R72's examples of text. -/
theorem test_text :
    addrName 0x3E = "3E" ∧ addrName 0x0A = "0A" ∧ addrName 0x3D = "HOST" ∧ opText (.txPush 0xAA) = "TX_PUSH 0xAA" ∧
    opText (.txSetArg 0x1234) = "TX_SETARG 0x1234" ∧ opText .rxStat = "RX_STAT" := by decide

/-! ### Witnesses: each obligation's hypotheses can be met -/

/-- The Packet of R100's example. -/
def samplePacket : Packet := ⟨0x3D, 0x20, 0x01, 0x10, [0x02]⟩

/-- Its frame. -/
def sampleFrame : List Byte := [0x3D, 0x20, 0x01, 0x10, 0x01, 0x02, 0x8E, 0xFF]

/-- A state in the middle of an emission meets the invariant. -/
theorem test_witness_inv_emitting : Inv (emitting 6 0x71) where
  tx_len := by decide
  tx_load := by decide
  tx_emit_pos := by decide
  tx_emit_acc := by decide
  tx_arg := by decide
  rx_arg := by decide
  rx_err := by decide
  rx_done := by decide
  rx_recv := by decide
  rx_header := by decide
  tx_filled := by decide
  rx_filled := by decide
  rx_oversize := by decide
  tx_wf := by decide
  rx_wf := by decide

/-- A state with a Packet loaded meets the invariant. -/
theorem test_witness_inv_loaded : Inv loaded ∧ loaded.tx.state = .load := by
  refine ⟨?_, rfl⟩
  constructor <;> decide

/-- A state in the middle of a reception meets both invariants. -/
theorem test_witness_inv_receiving : Inv almostReceived ∧ Received almostReceived := by
  constructor <;> constructor <;> decide

/-- A state that holds a received frame meets the invariant. -/
theorem test_witness_inv_received : Inv received := by constructor <;> decide

/-- EveryOperationDecodesFromItsWord, EveryLegalWordIsTheEncodingOfItsOperation. -/
theorem test_witness_encoding :
    (Instr.txSetArg 0xFFFF).wellFormed = true ∧ decode 0x24FFFF = .ok (.txSetArg 0xFFFF) := by decide

/-- DecoderFollowsTheOpcodeTable. -/
theorem test_witness_table :
    decode 0x2500FF = .ok (.txPush 0xFF) ∧ ⟨"TX_PUSH", .b, 0x250000⟩ ∈ opcodeTable ∧
    OpcodeRow.accepts ⟨"TX_PUSH", .b, 0x250000⟩ 0x2500FF = true := by decide

/-- IllegalWordsAreRefusedAndChangeNothing. -/
theorem test_witness_illegal : ∃ e, decode 0x31FFFF = .error e := ⟨.nonzeroHighByte 0xFFFF, by decide⟩

/-- StepRunsTheDecodedOperation, RefusedCommandChangesNothing: a word that is refused. -/
theorem test_witness_step :
    decode 0x270000 = .ok .txPop ∧ Instr.txPop.wellFormed = true ∧
    step { State.reset with pending := [.command 0x270000] } =
      .next { State.reset with responses := [rspWord .badState 0] } := ⟨by decide, by decide, rfl⟩

/-- StepWithNothingPendingChangesNothing. -/
theorem test_witness_nothing_pending : State.reset.pending = [] := rfl

/-- EveryReachableStateMeetsTheInvariant: a run as long as its events. -/
theorem test_witness_events : 2 ≤ [PortEvent.command 0x260000, .reset].length := by decide

/-- EveryOperationCompletes: a state with two command words pending that meets the invariant. -/
theorem test_witness_pending :
    Inv { loaded with pending := [0x260000, 0xFFFFFF].map .command } := by
  constructor <;> decide

/-- ResetInputEqualsTheThreeClears, second part: reset registers beside a buffer that is not empty. -/
theorem test_witness_after_reset :
    AfterReset { State.reset with rx := { State.reset.rx with buf := [(0, 0xAA)] } } := ⟨rfl, rfl, rfl⟩

/-- EveryStepKeepsTheInvariant, EveryStepKeepsReceivedSum: steps taken from states that meet them. -/
theorem test_witness_invariant_steps :
    Inv { emitting 6 0x71 with pending := [.command 0x270000] } ∧
    completes (step { emitting 6 0x71 with pending := [.command 0x270000] }) = true ∧
    Inv { almostReceived with pending := [.command 0x3100FE] } ∧
    Received { almostReceived with pending := [.command 0x3100FE] } ∧
    completes (step { almostReceived with pending := [.command 0x3100FE] }) = true := by
  refine ⟨?_, by decide, ?_, ?_, by decide⟩ <;> constructor <;> decide

/-- CsUnitComputesChecksum16 (with `Inv loaded`). -/
theorem test_witness_cs_operations :
    Instr.csClr ∉ [Instr.csAdd 0x3D, .csGet, .txPop, .rxPush 0x20, .csAdd 0x20] := by decide

/-- TxByteSettersWriteTheirField, TxStartFreezesThePacket, PacketIsImmutableWhileEmitting: both states. -/
theorem test_witness_tx_states : loaded.tx.state = .load ∧ (emitting 0 0).tx.state = .emit := by decide

/-- TxSetArgRefusesWhatDoesNotFit: the boundary values of its clauses. -/
theorem test_witness_txSetArg :
    loaded.tx.state = .load ∧ loaded.cfg.argBytes = .one ∧ 256 ≤ (0x0100 : Half).toNat ∧ (0x00FF : Half).toNat < 256 ∧
    wide.tx.state = .load ∧ wide.cfg.argBytes = .two := by decide

/-- The loaded Packet on an instance with `PAYLOAD_MAX = n`. -/
def limited (n : Byte) : State := { loaded with cfg := ⟨.one, n⟩ }

/-- TxPushAppendsOneByte: a full buffer, and one byte below the limit. -/
theorem test_witness_txPush :
    (limited 1).tx.state = .load ∧ (limited 1).tx.len = (limited 1).cfg.payloadMax ∧
    (limited 2).tx.state = .load ∧ (limited 2).tx.len.toNat < (limited 2).cfg.payloadMax.toNat := by decide

/-- TxPopDeliversTheNextByte: the last content position and the two checksum positions. -/
theorem test_witness_txPop :
    (emitting 5 0x6F).tx.pos.toNat < (emitting 5 0x6F).cfg.headerLen + (emitting 5 0x6F).tx.len.toNat ∧
    txByte (emitting 5 0x6F).cfg (emitting 5 0x6F).tx (emitting 5 0x6F).tx.pos.toNat = some 0x02 ∧
    (emitting 6 0x71).tx.pos.toNat = (emitting 6 0x71).cfg.headerLen + (emitting 6 0x71).tx.len.toNat ∧
    (emitting 7 0x71).tx.pos.toNat = (emitting 7 0x71).cfg.headerLen + (emitting 7 0x71).tx.len.toNat + 1 := by decide

/-- TxByteTable, TxByteAgreesWithTheContent: the one payload position, and the position after it. -/
theorem test_witness_txByte :
    loaded.tx.buf.filled loaded.tx.len.toNat ∧ loaded.cfg.headerLen ≤ 5 ∧
    5 < loaded.cfg.headerLen + loaded.tx.len.toNat ∧ loaded.cfg.headerLen + loaded.tx.len.toNat ≤ 6 ∧
    wide.cfg.argBytes = .two := by decide

/-- LoadingAPacketHoldsIt, EncodeLengthAndInjectivity, DecodeInvertsEncode (a receiver with the smallest sufficient
`PAYLOAD_MAX`), ChecksumDetection (a checksum byte). -/
theorem test_witness_encode :
    samplePacket.wellFormed {} = true ∧ encodeFrame {} samplePacket = some sampleFrame ∧
    samplePacket.payload.length ≤ (Config.mk .one 1).payloadMax.toNat ∧ sampleFrame[7]? = some 0xFF ∧
    7 ≠ (Config.mk .one 255).headerLen - 1 := by decide

/-- TxStateMachine, UnitsShareNothing, RefusalCausesAreComplete, OnlyTheListedOperationsWriteEachRegister: operations
that complete, among them each kind of refusal, and two states that agree on a unit. -/
theorem test_witness_exec :
    completes (exec .txStart loaded) = true ∧ completes (exec .txClr loaded) = true ∧
    completes (exec .txPop (emitting 5 0x6F)) = true ∧ completes (exec .txPop (emitting 7 0x71)) = true ∧
    completes (exec .txPop loaded) = true ∧ completes (exec (.txSetArg 0x100) loaded) = true ∧
    loaded.cfg = (summing 1).cfg ∧ loaded.rx = (summing 1).rx ∧ completes (exec .rxStat loaded) = true := by decide

/-- RxPhaseTable: a payload position, and a position past the frame (`A = 1`, one payload byte). -/
theorem test_witness_rxPhase :
    (Config.mk .one 255).headerLen ≤ 5 ∧ 5 < (Config.mk .one 255).headerLen + (1 : Byte).toNat ∧
    (Config.mk .one 255).headerLen + (1 : Byte).toNat + 1 < 8 ∧ wide.cfg.argBytes = .two := by decide

/-- RxPushTakesHeaderBytes: every header position of an instance with `A = 2`, and both sides of `PAYLOAD_MAX`. -/
theorem test_witness_rxPush_header :
    (headerAt wide 0).rx.state = .recv ∧ (headerAt wide 0).rx.pos = 0 ∧ (headerAt wide 1).rx.pos = 1 ∧
    (headerAt wide 2).rx.pos = 2 ∧ (headerAt wide 3).rx.pos = 3 ∧ (headerAt wide 4).rx.pos = 4 ∧
    wide.cfg.argBytes = .two ∧ (headerAt wide 5).rx.pos.toNat = 3 + wide.cfg.argBytes.toNat ∧
    ¬ wide.cfg.payloadMax.toNat < (16 : Byte).toNat ∧ wide.cfg.payloadMax.toNat < (17 : Byte).toNat := by decide

/-- RxPushStoresPayloadBytes: the first and the last payload position. -/
theorem test_witness_rxPush_payload :
    (receiving 5 0x70 0 []).rx.state = .recv ∧
    (receiving 5 0x70 0 []).cfg.headerLen ≤ (receiving 5 0x70 0 []).rx.pos.toNat ∧
    (receiving 6 0x11A 0 [(0, 0xAA)]).rx.pos.toNat <
      (receiving 6 0x11A 0 []).cfg.headerLen + (receiving 6 0x11A 0 []).rx.len.toNat := by decide

/-- RxPushEndsTheFrame, RxEndRecordsTruncation, ResultIsHeldUntilCleared: the two checksum positions, with a matching
and a differing last byte, and a finished frame. -/
theorem test_witness_rxPush_checksum :
    (receiving 7 0x16F 0 []).rx.pos.toNat =
      (receiving 7 0x16F 0 []).cfg.headerLen + (receiving 7 0x16F 0 []).rx.len.toNat ∧
    almostReceived.rx.state = .recv ∧
    almostReceived.rx.pos.toNat = almostReceived.cfg.headerLen + almostReceived.rx.len.toNat + 1 ∧
    256 * (0xFE : Byte).toNat + almostReceived.rx.ck.toNat % 256 = 65535 - almostReceived.rx.acc.toNat ∧
    256 * (0xFF : Byte).toNat + almostReceived.rx.ck.toNat % 256 ≠ 65535 - almostReceived.rx.acc.toNat ∧
    received.rx.state ≠ .recv ∧ completes (exec .rxEnd received) = true := by decide

/-- RxRdBufReadsBelowTheCount: the last index below the count and the first at it. -/
theorem test_witness_rxRdBuf :
    min (received.rx.pos.toNat - received.cfg.headerLen) received.rx.len.toNat ≤ (2 : Byte).toNat ∧
    (1 : Byte).toNat < min (received.rx.pos.toNat - received.cfg.headerLen) received.rx.len.toNat ∧
    received.rx.buf.read 1 = some 0x55 := by decide

/-- RxStateMachine (with the invariants above): an operation of each state that completes. -/
theorem test_witness_rx_machine :
    almostReceived.rx.state = .recv ∧ completes (exec (.rxPush 0xFE) almostReceived) = true ∧
    received.rx.state ≠ .recv ∧ completes (exec .rxClr received) = true := by decide

/-- AddressNamesAndClasses: an unnamed address. -/
theorem test_witness_unnamed_address : addrClass 0x3E = 0 := by decide

/-- ExecFaultsExactlyWhereListed: each of the three faults arises, in a state that no run reaches. -/
theorem test_witness_faults :
    faults (exec .txPop { emitting 5 0x6F with tx := { (emitting 5 0x6F).tx with buf := [] } })
      (.unwrittenByte .txBuf 0) = true ∧
    faults (exec (.rxPush 0) (receiving 9 0 0 [])) (.positionPastFrame 9) = true ∧
    faults (exec (.rxRdBuf 1) (receiving 7 0 0 [])) (.unwrittenByte .rxBuf 1) = true := by decide

/-- StaleBufferBytesAreUnobservable: two states that differ in a byte at `TX_LEN`, and a step of the first. -/
theorem test_witness_stale :
    SameVisible { loaded with pending := [.command 0x250055] }
      { loaded with
        pending := [.command 0x250055], tx := { loaded.tx with buf := [(0, 0x02), (1, 0x77)] } } ∧
    completes (step { loaded with pending := [.command 0x250055] }) = true := by
  refine ⟨⟨rfl, rfl, rfl, rfl, rfl, rfl, ?_, ?_⟩, ?_⟩ <;> decide

/-- DecodeInvertsEncode, second part, DecodeChecksStructureFirst: a complete sequence, right and wrong. -/
theorem test_witness_decode :
    decodeFrame {} sampleFrame ≠ .error .framing ∧
    1 = (byteAt sampleFrame ((Config.mk .one 255).headerLen - 1)).toNat := by decide

/-- ChecksumDetection, last part: two Packets whose contents have one sum. -/
theorem test_witness_equal_sums :
    samplePacket.wellFormed {} = true ∧ Packet.wellFormed {} ⟨0x20, 0x3D, 0x01, 0x10, [0x02]⟩ = true ∧
    byteSum (contentBytes {} ⟨0x20, 0x3D, 0x01, 0x10, [0x02]⟩) % 65536 =
      byteSum (contentBytes {} samplePacket) % 65536 := by decide

end Sys2Proof.Tests
end

section
/-!
PROOFS. 00_scope.md section 5: a step on a command word (R9, R68) and what one operation answers (R9, R10). Every
operation that answers a next state either completes with `OK`, writing at most its units' registers and buffers, or
is refused with its state unchanged; `exec_answered` says so once for all 27.
-/

open Sys2Proof Sys2Proof.Machine

namespace Sys2Proof.Machine

/-! ### A step on a command word -/

/-- R68: a legal word is taken off the port and its operation runs. -/
theorem step_of_decode_ok {s : State} {w : CmdWord} {rest : List PortEvent} {i : Instr}
    (hp : s.pending = .command w :: rest) (hd : decode w = .ok i) :
    step s = exec i { s with pending := rest } := by
  simp [step, State.take_cons hp, hd]

/-- R69: an illegal word is taken off the port and refused. -/
theorem step_of_decode_error {s : State} {w : CmdWord} {rest : List PortEvent} {e : DecodeError}
    (hp : s.pending = .command w :: rest) (hd : decode w = .error e) :
    step s = refuse .illegalOp { s with pending := rest } := by
  simp [step, State.take_cons hp, hd]

/-! ### What one operation answers -/

/-- The two ways an operation that starts in `s` can answer: it completes (R9) or it is refused (R10). Neither
touches the parameters or the port, and each adds one response. -/
inductive Answered (s : State) : State → Prop
  /-- Completed with `OK`: only the units may have changed. -/
  | completed (csAcc : Half) (tx : TxUnit) (rx : RxUnit) (d : Half) :
      Answered s (State.respond { s with csAcc := csAcc, tx := tx, rx := rx } .ok d)
  /-- Refused: nothing has changed. -/
  | refused (st : Status) (hst : st ≠ .ok) : Answered s (s.respond st 0)

/-- `return v` after a change of the units only. -/
theorem Answered.of_complete {s t : State} {csAcc : Half} {tx : TxUnit} {rx : RxUnit} {d : Half}
    (h : complete d { s with csAcc := csAcc, tx := tx, rx := rx } = .next t) : Answered s t := by
  rw [complete_eq_next.1 h]
  exact .completed csAcc tx rx d

/-- `refuse S` in the state the operation started in. -/
theorem Answered.of_refuse {s t : State} {st : Status} (hst : st ≠ .ok) (h : refuse st s = .next t) :
    Answered s t := by
  rw [refuse_eq_next.1 h]
  exact .refused st hst

/-- The check of the loading operations refuses or lets the operation answer for itself (R103). -/
theorem Answered.of_whileLoading {s t : State} {r : Result} (hr : r = .next t → Answered s t)
    (h : whileLoading s r = .next t) : Answered s t := by
  obtain ⟨-, hload⟩ | ⟨-, rfl⟩ := whileLoading_cases h
  · exact hr hload
  · exact .refused .badState (by decide)

theorem execTxSetArg_answered {x : Half} {s t : State} (h : execTxSetArg x s = .next t) : Answered s t := by
  refine .of_whileLoading (fun hload => ?_) h
  split_ifs at hload
  · exact .of_complete hload
  · exact .of_refuse (by decide) hload

theorem execTxPush_answered {b : Byte} {s t : State} (h : execTxPush b s = .next t) : Answered s t := by
  refine .of_whileLoading (fun hload => ?_) h
  split_ifs at hload
  · exact .of_refuse (by decide) hload
  · exact .of_complete hload

theorem execTxPop_answered {s t : State} (h : execTxPop s = .next t) : Answered s t := by
  obtain ⟨-, rfl⟩ | ⟨-, -, b, -, rfl⟩ | ⟨-, -, rfl⟩ | ⟨-, -, rfl⟩ := execTxPop_cases h
  · exact .refused .badState (by decide)
  · exact .completed ..
  · exact .completed ..
  · exact .completed ..

theorem execRxPush_answered {b : Byte} {s t : State} (h : execRxPush b s = .next t) : Answered s t := by
  obtain ⟨-, rfl⟩ | ⟨-, ph, -, rfl⟩ := execRxPush_cases h
  · exact .refused .badState (by decide)
  · exact .completed ..

theorem execRxRdBuf_answered {i : Byte} {s t : State} (h : execRxRdBuf i s = .next t) : Answered s t := by
  obtain ⟨-, rfl⟩ | ⟨-, b, -, rfl⟩ := execRxRdBuf_cases h
  · exact .refused .badOperand (by decide)
  · exact .completed s.csAcc s.tx s.rx (zext b)

/-- Every operation that answers a next state completes or is refused (R9, R10). -/
theorem exec_answered {i : Instr} {s t : State} (h : exec i s = .next t) : Answered s t := by
  cases i with
  | txSetSrc | txSetDst | txSetCmd | txStart => exact .of_whileLoading .of_complete h
  | txSetArg => exact execTxSetArg_answered h
  | txPush => exact execTxPush_answered h
  | txPop => exact execTxPop_answered h
  | rxPush => exact execRxPush_answered h
  | rxRdBuf => exact execRxRdBuf_answered h
  | csClr | csAdd | csGet | txClr | txStat | txGetLen | rxClr | rxEnd | rxStat | rxGetSrc | rxGetDst | rxGetCmd
  | rxGetArg | rxGetLen | rxGetCk | rxGetCalc | addrCls | cfgGet => exact .of_complete h

/-- A step that takes a command word answers it, legal or not, from the state without the word. -/
theorem step_command_answered {s t : State} {w : CmdWord} {rest : List PortEvent}
    (hp : s.pending = .command w :: rest) (h : step s = .next t) : Answered { s with pending := rest } t := by
  cases hd : decode w with
  | ok i => exact exec_answered (step_of_decode_ok hp hd ▸ h)
  | error e => exact .of_refuse (by decide) (step_of_decode_error hp hd ▸ h)

/-! ### The obligations -/

/-- Settles O9: by `step_command_answered`, the answer is a completion, whose status is `OK`, or a refusal, which is
the state without the word and one more response. -/
theorem refusedCommandChangesNothing : Obligations.RefusedCommandChangesNothing := by
  intro s t w rest hp h
  cases step_command_answered hp h with
  | completed csAcc tx rx d => exact ⟨.ok, d, rfl, rfl, rfl, fun hne => absurd rfl hne⟩
  | refused st hst => exact ⟨st, 0, rfl, rfl, rfl, fun _ => ⟨rfl, rfl⟩⟩

/-- Settles O6, for every operation: all of them are well-formed. -/
theorem stepRunsTheDecodedOperation : Obligations.StepRunsTheDecodedOperation :=
  fun _ _ _ _ hp hd _ => step_of_decode_ok hp hd

end Sys2Proof.Machine
end

section
/-!
PROOFS. 10_state.md: the register values at reset (R38), the operations that write each register (R38, column "written
by"), and the invariants of R37 with what the RX registers say of the bytes received (R24, R28, R29). `Changes` says
once what each operation can do to the three units; the invariants are then kept change by change.
-/

open Sys2Proof Sys2Proof.Machine

namespace Sys2Proof

/-! ### The constants of a configuration -/

theorem ArgBytes.toNat_one_or_two (a : ArgBytes) : a = .one ∧ a.toNat = 1 ∨ a = .two ∧ a.toNat = 2 := by
  cases a <;> simp [ArgBytes.toNat]

theorem Config.headerLen_eq (c : Config) : c.headerLen = 4 + c.argBytes.toNat := rfl

theorem Config.headerLen_le (c : Config) : 5 ≤ c.headerLen ∧ c.headerLen ≤ 6 := by
  have := c.argBytes.toNat_one_or_two
  have := c.headerLen_eq
  omega

theorem Config.contentLen_eq (c : Config) (n : Nat) : c.contentLen n = c.headerLen + n := rfl

theorem Config.frameLen_eq (c : Config) (n : Nat) : c.frameLen n = c.contentLen n + 2 := rfl

/-- The reset value of a length register is within every `PAYLOAD_MAX` (R4, R38). -/
theorem zero_le_payloadMax (c : Config) : 0 ≤ c.payloadMax := BitVec.le_def.2 (Nat.zero_le _)

end Sys2Proof

namespace Sys2Proof.Machine

/-- R19, R27: a position inside a frame is at most 262, so 9 bits hold the next one. -/
theorem pos_succ_toNat {c : Config} {p : Pos} {n : Byte} (h : p.toNat ≤ c.contentLen n.toNat + 1) :
    (p + 1).toNat = p.toNat + 1 := by
  have := c.headerLen_le
  have := c.contentLen_eq n.toNat
  have := n.isLt
  rw [BitVec.toNat_add, show (1 : Pos).toNat = 1 from rfl]
  omega

theorem len_succ_toNat {n m : Byte} (h : n ≤ m) (hne : n ≠ m) : (n + 1).toNat = n.toNat + 1 := by
  have := m.isLt
  have := BitVec.toNat_ne_iff_ne.2 hne
  rw [BitVec.le_def] at h
  rw [BitVec.toNat_add, show (1 : Byte).toNat = 1 from rfl]
  omega

theorem bufIndex_toNat {c : Config} {q : Nat} {n : Byte} (h : q < c.contentLen n.toNat) :
    (bufIndex c q).toNat = q - c.headerLen := by
  have := c.contentLen_eq n.toNat
  have := n.isLt
  rw [bufIndex, BitVec.toNat_ofNat]
  omega

theorem highByte_zero : highByte 0 = 0 := by decide

theorem Memory.filled_zero (m : Memory) : m.filled 0 := fun i hi => absurd hi (Nat.not_lt_zero i)

/-! ### The content of the Packet the TX unit holds -/

@[simp] theorem byteSum_nil : byteSum [] = 0 := rfl

@[simp] theorem byteSum_append (l k : List Byte) : byteSum (l ++ k) = byteSum l + byteSum k := by
  simp [byteSum]

@[simp] theorem byteSum_singleton (b : Byte) : byteSum [b] = b.toNat := by simp [byteSum]

/-- R90: header and `payload_len` before the payload. -/
def headerBytes (c : Config) (t : TxUnit) : List Byte :=
  [t.src, t.dst, t.cmd] ++ argumentBytes c.argBytes t.arg ++ [t.len]

theorem headerBytes_length (c : Config) (t : TxUnit) : (headerBytes c t).length = c.headerLen := by
  obtain ⟨h, -⟩ | ⟨h, -⟩ := c.argBytes.toNat_one_or_two <;>
    simp [headerBytes, argumentBytes, Config.headerLen, ArgBytes.toNat, h]

theorem contentBytes_packet {c : Config} {t : TxUnit} (hf : t.buf.filled t.len.toNat) :
    contentBytes c t.packet = headerBytes c t ++ t.buf.slice t.len.toNat := by
  simp [contentBytes, headerBytes, TxUnit.packet, Memory.slice_length hf]

theorem contentBytes_packet_length {c : Config} {t : TxUnit} (hf : t.buf.filled t.len.toNat) :
    (contentBytes c t.packet).length = c.contentLen t.len.toNat := by
  rw [contentBytes_packet hf, List.length_append, headerBytes_length, Memory.slice_length hf, Config.contentLen_eq]

/-- R106, header positions: no buffer byte is involved. -/
theorem txByte_header (c : Config) (t : TxUnit) {q : Nat} (hq : q < c.headerLen) :
    txByte c t q = (headerBytes c t)[q]? := by
  obtain ⟨ha, hn⟩ | ⟨ha, hn⟩ := c.argBytes.toNat_one_or_two
  all_goals
    rw [Config.headerLen_eq, hn] at hq
    interval_cases q <;> simp [txByte, headerBytes, argumentBytes, ArgBytes.toNat, ha]

/-- R106, payload positions: the buffer byte at `q - H`. -/
theorem txByte_payload (c : Config) (t : TxUnit) {q : Nat} (hH : c.headerLen ≤ q) (hq : q < c.contentLen t.len.toNat) :
    txByte c t q = t.buf.readAt (q - c.headerLen) := by
  have hH5 := c.headerLen_le
  have hH' := c.headerLen_eq
  have h4 : ¬ (q = 4 ∧ c.argBytes = .two) := fun ⟨hq4, _⟩ => by omega
  rw [txByte, if_neg (by omega), if_neg (by omega), if_neg (by omega), if_neg (by omega), if_neg h4,
    if_neg (by omega), if_pos hq, Memory.read, bufIndex_toNat hq]

/-- R90, R106: the unit's byte at a content position is the byte of the encoded content of the Packet it holds. -/
theorem txByte_eq_content {c : Config} {t : TxUnit} {q : Nat} (hf : t.buf.filled t.len.toNat)
    (hq : q < c.contentLen t.len.toNat) : txByte c t q = (contentBytes c t.packet)[q]? := by
  rw [contentBytes_packet hf]
  rcases Nat.lt_or_ge q c.headerLen with hH | hH
  · rw [txByte_header c t hH, List.getElem?_append_left (by rwa [headerBytes_length])]
  · have hlt : q - c.headerLen < t.len.toNat := by
      have := c.contentLen_eq t.len.toNat
      omega
    rw [txByte_payload c t hH hq, List.getElem?_append_right (by rwa [headerBytes_length]), headerBytes_length,
      Memory.slice_getElem? hf hlt]

/-- One more content byte delivered: the bytes delivered so far grow by it. -/
theorem take_content_succ {c : Config} {t : TxUnit} {q : Nat} {b : Byte} (hf : t.buf.filled t.len.toNat)
    (hq : q < c.contentLen t.len.toNat) (hb : txByte c t q = some b) :
    (contentBytes c t.packet).take (q + 1) = (contentBytes c t.packet).take q ++ [b] := by
  rw [List.take_add_one, ← txByte_eq_content hf hq, hb, Option.toList_some]

/-! ### What each operation can do to the three units -/

/-- What an operation does to `CS_ACC` (R83 to R85). -/
inductive CsChange (acc : Half) : Instr → Half → Prop
  | same (i : Instr) : CsChange acc i acc
  | clear : CsChange acc .csClr 0
  | add (b : Byte) : CsChange acc (.csAdd b) (accAdd acc b)

/-- What an operation does to the TX unit (R93 to R102). -/
inductive TxChange (c : Config) (t : TxUnit) : Instr → TxUnit → Prop
  | same (i : Instr) : TxChange c t i t
  | clear : TxChange c t .txClr t.clear
  | setSrc (hload : t.state = .load) (b : Byte) : TxChange c t (.txSetSrc b) { t with src := b }
  | setDst (hload : t.state = .load) (b : Byte) : TxChange c t (.txSetDst b) { t with dst := b }
  | setCmd (hload : t.state = .load) (b : Byte) : TxChange c t (.txSetCmd b) { t with cmd := b }
  | setArg (hload : t.state = .load) (x : Half) (hfits : c.argBytes.fits x = true) :
      TxChange c t (.txSetArg x) { t with arg := x }
  | push (hload : t.state = .load) (b : Byte) (hroom : t.len ≠ c.payloadMax) :
      TxChange c t (.txPush b) { t with buf := t.buf.write t.len b, len := t.len + 1 }
  | start (hload : t.state = .load) : TxChange c t .txStart { t with state := .emit, pos := 0, acc := 0 }
  | popContent (hemit : t.state = .emit) (hpos : t.pos.toNat < c.contentLen t.len.toNat) (b : Byte)
      (hb : txByte c t t.pos.toNat = some b) :
      TxChange c t .txPop { t with acc := accAdd t.acc b, pos := t.pos + 1 }
  | popLow (hemit : t.state = .emit) (hpos : t.pos.toNat = c.contentLen t.len.toNat) :
      TxChange c t .txPop { t with pos := t.pos + 1 }
  | popLast (hemit : t.state = .emit) : TxChange c t .txPop { t with state := .load, pos := 0 }

/-- What an operation does to the RX unit (R115 to R126). -/
inductive RxChange (c : Config) (r : RxUnit) : Instr → RxUnit → Prop
  | same (i : Instr) : RxChange c r i r
  | clear : RxChange c r .rxClr r.rearm
  | push (hrecv : r.state = .recv) (b : Byte) (ph : RxPhase) (hph : rxPhase c r.len r.pos.toNat = some ph) :
      RxChange c r (.rxPush b) (r.push c ph b)
  | truncate (hrecv : r.state = .recv) : RxChange c r .rxEnd (r.raise .framing)

/-- What the operation `i` does to a state, its responses apart. -/
structure Changes (i : Instr) (s t : State) : Prop where
  cfg : t.cfg = s.cfg
  pending : t.pending = s.pending
  cs : CsChange s.csAcc i t.csAcc
  tx : TxChange s.cfg s.tx i t.tx
  rx : RxChange s.cfg s.rx i t.rx

/-- An operation that only answers. -/
theorem Changes.respond (i : Instr) (s : State) (st : Status) (d : Half) : Changes i s (s.respond st d) :=
  ⟨rfl, rfl, .same i, .same i, .same i⟩

theorem Changes.of_complete {i : Instr} {d : Half} {s t : State} (h : complete d s = .next t) : Changes i s t :=
  complete_eq_next.1 h ▸ .respond i s .ok d

theorem Changes.of_refuse {i : Instr} {st : Status} {s t : State} (h : refuse st s = .next t) : Changes i s t :=
  refuse_eq_next.1 h ▸ .respond i s st 0

/-- An operation of the TX family that completes. -/
theorem Changes.of_tx {i : Instr} {d : Half} {s t : State} {tx : TxUnit} (htx : TxChange s.cfg s.tx i tx)
    (h : complete d { s with tx := tx } = .next t) : Changes i s t :=
  complete_eq_next.1 h ▸ ⟨rfl, rfl, .same i, htx, .same i⟩

/-- An operation of the RX family that completes. -/
theorem Changes.of_rx {i : Instr} {d : Half} {s t : State} {rx : RxUnit} (hrx : RxChange s.cfg s.rx i rx)
    (h : complete d { s with rx := rx } = .next t) : Changes i s t :=
  complete_eq_next.1 h ▸ ⟨rfl, rfl, .same i, .same i, hrx⟩

/-- An operation of R103: refused in `EMIT`, and in `LOAD` it answers for itself. -/
theorem Changes.of_whileLoading {i : Instr} {s t : State} {r : Result}
    (hr : s.tx.state = .load → r = .next t → Changes i s t) (h : whileLoading s r = .next t) : Changes i s t := by
  obtain ⟨hload, hnext⟩ | ⟨-, rfl⟩ := whileLoading_cases h
  · exact hr hload hnext
  · exact .respond i s .badState 0

theorem execTxSetArg_changes {x : Half} {s t : State} (h : execTxSetArg x s = .next t) :
    Changes (.txSetArg x) s t := by
  refine .of_whileLoading (fun hload hnext => ?_) h
  split_ifs at hnext with hfits
  · exact .of_tx (.setArg hload x hfits) hnext
  · exact .of_refuse hnext

theorem execTxPush_changes {b : Byte} {s t : State} (h : execTxPush b s = .next t) : Changes (.txPush b) s t := by
  refine .of_whileLoading (fun hload hnext => ?_) h
  split_ifs at hnext with hfull
  · exact .of_refuse hnext
  · exact .of_tx (.push hload b hfull) hnext

theorem execTxPop_changes {s t : State} (h : execTxPop s = .next t) : Changes .txPop s t := by
  obtain ⟨-, rfl⟩ | ⟨hemit, hpos, b, hb, rfl⟩ | ⟨hemit, hpos, rfl⟩ | ⟨hemit, -, rfl⟩ := execTxPop_cases h
  · exact .respond ..
  · exact .of_tx (.popContent hemit hpos b hb) rfl
  · exact .of_tx (.popLow hemit hpos) rfl
  · exact .of_tx (.popLast hemit) rfl

theorem execRxPush_changes {b : Byte} {s t : State} (h : execRxPush b s = .next t) : Changes (.rxPush b) s t := by
  obtain ⟨-, rfl⟩ | ⟨hrecv, ph, hph, rfl⟩ := execRxPush_cases h
  · exact .respond ..
  · exact .of_rx (.push hrecv b ph hph) rfl

theorem execRxRdBuf_changes {j : Byte} {s t : State} (h : execRxRdBuf j s = .next t) : Changes (.rxRdBuf j) s t := by
  obtain ⟨-, rfl⟩ | ⟨-, b, -, rfl⟩ := execRxRdBuf_cases h
  · exact .respond ..
  · exact .respond ..

/-- R117: `RX_END` records a truncation in `RECV` and changes nothing in the two terminal states. -/
theorem finish_change (c : Config) (r : RxUnit) : RxChange c r .rxEnd r.finish := by
  unfold RxUnit.finish
  cases hr : r.state with
  | recv => exact .truncate hr
  | done | err => exact .same _

/-- Every operation that answers a next state changes the units only as its row of R38 lets it. -/
theorem exec_changes {i : Instr} {s t : State} (h : exec i s = .next t) : Changes i s t := by
  cases i with
  | csClr => exact complete_eq_next.1 h ▸ ⟨rfl, rfl, .clear, .same _, .same _⟩
  | csAdd b => exact complete_eq_next.1 h ▸ ⟨rfl, rfl, .add b, .same _, .same _⟩
  | txClr => exact .of_tx .clear h
  | txSetSrc b => exact .of_whileLoading (fun hload => .of_tx (.setSrc hload b)) h
  | txSetDst b => exact .of_whileLoading (fun hload => .of_tx (.setDst hload b)) h
  | txSetCmd b => exact .of_whileLoading (fun hload => .of_tx (.setCmd hload b)) h
  | txSetArg x => exact execTxSetArg_changes h
  | txPush b => exact execTxPush_changes h
  | txStart => exact .of_whileLoading (fun hload => .of_tx (.start hload)) h
  | txPop => exact execTxPop_changes h
  | rxClr => exact .of_rx .clear h
  | rxPush b => exact execRxPush_changes h
  | rxEnd => exact .of_rx (finish_change s.cfg s.rx) h
  | rxRdBuf j => exact execRxRdBuf_changes h
  | csGet | txStat | txGetLen | rxStat | rxGetSrc | rxGetDst | rxGetCmd | rxGetArg | rxGetLen | rxGetCk | rxGetCalc
  | addrCls | cfgGet => exact .of_complete h

/-! ### The registers an operation writes (R38) -/

/-- A TX register or buffer that changes was changed by an operation of its row. -/
theorem TxChange.written_by {c : Config} {t t' : TxUnit} {i : Instr} (h : TxChange c t i t') :
    (t'.src ≠ t.src → (∃ b, i = .txSetSrc b) ∨ i = .txClr) ∧
    (t'.dst ≠ t.dst → (∃ b, i = .txSetDst b) ∨ i = .txClr) ∧
    (t'.cmd ≠ t.cmd → (∃ b, i = .txSetCmd b) ∨ i = .txClr) ∧
    (t'.arg ≠ t.arg → (∃ x, i = .txSetArg x) ∨ i = .txClr) ∧
    (t'.len ≠ t.len → (∃ b, i = .txPush b) ∨ i = .txClr) ∧
    (t'.state ≠ t.state → i = .txStart ∨ i = .txPop ∨ i = .txClr) ∧
    (t'.pos ≠ t.pos → i = .txStart ∨ i = .txPop ∨ i = .txClr) ∧
    (t'.acc ≠ t.acc → i = .txStart ∨ i = .txPop ∨ i = .txClr) ∧
    (t'.buf ≠ t.buf → ∃ b, i = .txPush b) := by
  cases h with
  | same => simp
  | clear => simp
  | setSrc | setDst | setCmd | setArg | push => simp
  | start | popContent | popLow | popLast => simp

/-- An RX register or buffer that changes was changed by an operation of its row. -/
theorem RxChange.written_by {c : Config} {r r' : RxUnit} {i : Instr} (h : RxChange c r i r') :
    (r'.src ≠ r.src → (∃ b, i = .rxPush b) ∨ i = .rxClr) ∧
    (r'.dst ≠ r.dst → (∃ b, i = .rxPush b) ∨ i = .rxClr) ∧
    (r'.cmd ≠ r.cmd → (∃ b, i = .rxPush b) ∨ i = .rxClr) ∧
    (r'.arg ≠ r.arg → (∃ b, i = .rxPush b) ∨ i = .rxClr) ∧
    (r'.len ≠ r.len → (∃ b, i = .rxPush b) ∨ i = .rxClr) ∧
    (r'.state ≠ r.state → (∃ b, i = .rxPush b) ∨ i = .rxEnd ∨ i = .rxClr) ∧
    (r'.err ≠ r.err → (∃ b, i = .rxPush b) ∨ i = .rxEnd ∨ i = .rxClr) ∧
    (r'.pos ≠ r.pos → (∃ b, i = .rxPush b) ∨ i = .rxClr) ∧
    (r'.acc ≠ r.acc → (∃ b, i = .rxPush b) ∨ i = .rxClr) ∧
    (r'.ck ≠ r.ck → (∃ b, i = .rxPush b) ∨ i = .rxClr) ∧
    (r'.buf ≠ r.buf → ∃ b, i = .rxPush b) := by
  cases h with
  | same => simp
  | clear => simp
  | push => simp
  | truncate => simp

theorem CsChange.written_by {a a' : Half} {i : Instr} (h : CsChange a i a') (hne : a' ≠ a) :
    i = .csClr ∨ ∃ b, i = .csAdd b := by
  cases h with
  | same => exact absurd rfl hne
  | clear => exact .inl rfl
  | add b => exact .inr ⟨b, rfl⟩

/-! ### A step, and the invariant's dependence on the units -/

/-- A step changes each unit as some operation does: a command as its own, a reset as the clears (R175), an illegal
word and an idle port not at all. -/
theorem step_changes {s t : State} (h : step s = .next t) :
    t.cfg = s.cfg ∧ (∃ i, TxChange s.cfg s.tx i t.tx) ∧ ∃ i, RxChange s.cfg s.rx i t.rx := by
  cases hp : s.pending with
  | nil =>
    obtain rfl : s = t := by simpa [step, State.take_nil hp] using h
    exact ⟨rfl, ⟨.cfgGet, .same _⟩, .cfgGet, .same _⟩
  | cons e rest =>
    cases e with
    | reset =>
      obtain rfl : { s with pending := rest }.applyReset = t := by simpa [step, State.take_cons hp] using h
      exact ⟨rfl, ⟨.txClr, .clear⟩, .rxClr, .clear⟩
    | command w =>
      cases hd : decode w with
      | ok i =>
        have hi : Changes i { s with pending := rest } t := exec_changes (step_of_decode_ok hp hd ▸ h)
        exact ⟨hi.cfg, ⟨i, hi.tx⟩, i, hi.rx⟩
      | error e =>
        have hi : Changes .cfgGet { s with pending := rest } t := .of_refuse (step_of_decode_error hp hd ▸ h)
        exact ⟨hi.cfg, ⟨.cfgGet, hi.tx⟩, .cfgGet, hi.rx⟩

/-- The invariant speaks of the parameters and the two units only. -/
theorem Inv.congr {s t : State} (h : Inv s) (hcfg : t.cfg = s.cfg) (htx : t.tx = s.tx) (hrx : t.rx = s.rx) : Inv t := by
  cases s
  cases t
  cases hcfg
  cases htx
  cases hrx
  exact { h with }

/-- What the RX registers say depends on the parameters and the RX unit only. -/
theorem Received.congr {s t : State} (h : Received s) (hcfg : t.cfg = s.cfg) (hrx : t.rx = s.rx) : Received t := by
  cases s
  cases t
  cases hcfg
  cases hrx
  exact { h with }

/-! ### The TX half of the invariant -/

/-- In `LOAD` the invariant asks nothing of the sum. -/
theorem Inv.with_loading_tx {s : State} (h : Inv s) {t : TxUnit} (hload : t.state = .load) (hpos : t.pos = 0)
    (hlen : t.len ≤ s.cfg.payloadMax) (harg : s.cfg.argBytes = .one → highByte t.arg = 0)
    (hfilled : t.buf.filled t.len.toNat) (hwf : t.buf.wf) : Inv { s with tx := t } :=
  { h with
    tx_len := hlen
    tx_load := fun _ => hpos
    tx_emit_pos := fun hemit => by simp [hload] at hemit
    tx_emit_acc := fun hemit => by simp [hload] at hemit
    tx_arg := harg
    tx_filled := hfilled
    tx_wf := hwf }

/-- In `EMIT` with the Packet as it was, only the position and the sum matter (R103). -/
theorem Inv.with_emitting_tx {s : State} (h : Inv s) {p : Pos} {a : Half}
    (hpos : p.toNat ≤ s.cfg.contentLen s.tx.len.toNat + 1)
    (hacc : a.toNat = byteSum ((contentBytes s.cfg s.tx.packet).take
      (min p.toNat (s.cfg.contentLen s.tx.len.toNat))) % 65536) :
    Inv { s with tx := { s.tx with state := .emit, pos := p, acc := a } } :=
  { h with
    tx_load := fun hload => by simp at hload
    tx_emit_pos := fun _ => hpos
    tx_emit_acc := fun _ => hacc }

/-- What fits the wire field has no high byte when the field is one byte (R97, R37 (d)). -/
theorem highByte_of_fits {c : Config} {x : Half} (hfits : c.argBytes.fits x = true) (hone : c.argBytes = .one) :
    highByte x = 0 := by
  simpa [hone, ArgBytes.fits, highByte] using hfits

/-- `TX_PUSH` below the limit: one more filled index, and the length stays within `PAYLOAD_MAX` (R98). -/
theorem Inv.tx_push {s : State} (h : Inv s) (hload : s.tx.state = .load) (b : Byte)
    (hroom : s.tx.len ≠ s.cfg.payloadMax) :
    Inv { s with tx := { s.tx with buf := s.tx.buf.write s.tx.len b, len := s.tx.len + 1 } } := by
  have hsucc := len_succ_toNat h.tx_len hroom
  refine h.with_loading_tx hload (h.tx_load hload) ?_ h.tx_arg ?_ (Memory.write_wf h.tx_wf _ _)
  · have := BitVec.le_def.1 h.tx_len
    have := BitVec.toNat_ne_iff_ne.2 hroom
    show s.tx.len + 1 ≤ s.cfg.payloadMax
    rw [BitVec.le_def]
    omega
  · show Memory.filled (Memory.writeAt s.tx.buf s.tx.len.toNat b) (s.tx.len + 1).toNat
    rw [hsucc]
    exact Memory.filled_writeAt h.tx_filled b

/-- `TX_POP` at a content position: the sum takes the byte delivered (R100). -/
theorem Inv.tx_popContent {s : State} (h : Inv s) (hemit : s.tx.state = .emit)
    (hpos : s.tx.pos.toNat < s.cfg.contentLen s.tx.len.toNat) {b : Byte}
    (hb : txByte s.cfg s.tx s.tx.pos.toNat = some b) :
    Inv { s with tx := { s.tx with acc := accAdd s.tx.acc b, pos := s.tx.pos + 1 } } := by
  have hsucc := pos_succ_toNat (h.tx_emit_pos hemit)
  have hacc := h.tx_emit_acc hemit
  rw [min_eq_left hpos.le] at hacc
  have hnew := h.with_emitting_tx (p := s.tx.pos + 1) (a := accAdd s.tx.acc b) (by omega) (by
    rw [hsucc, min_eq_left hpos, take_content_succ h.tx_filled hpos hb, byteSum_append, byteSum_singleton,
      accAdd_toNat, hacc, Nat.mod_add_mod])
  simpa only [← hemit] using hnew

/-- `TX_POP` of the low checksum byte: all content bytes stay in the sum (R100). -/
theorem Inv.tx_popLow {s : State} (h : Inv s) (hemit : s.tx.state = .emit)
    (hpos : s.tx.pos.toNat = s.cfg.contentLen s.tx.len.toNat) :
    Inv { s with tx := { s.tx with pos := s.tx.pos + 1 } } := by
  have hsucc := pos_succ_toNat (h.tx_emit_pos hemit)
  have hacc := h.tx_emit_acc hemit
  rw [hpos, min_self] at hacc
  have hnew := h.with_emitting_tx (p := s.tx.pos + 1) (a := s.tx.acc) (by omega) (by
    rw [hsucc, hpos, min_eq_right (Nat.le_succ _), hacc])
  simpa only [← hemit] using hnew

/-- Every change of the TX unit keeps the invariant. -/
theorem TxChange.keeps_inv {s : State} {i : Instr} {t : TxUnit} (hx : TxChange s.cfg s.tx i t) (h : Inv s) :
    Inv { s with tx := t } := by
  cases hx with
  | same => exact h.congr rfl rfl rfl
  | clear =>
    exact h.with_loading_tx rfl rfl (zero_le_payloadMax s.cfg) (fun _ => highByte_zero) (Memory.filled_zero _) h.tx_wf
  | setSrc hload | setDst hload | setCmd hload =>
    exact h.with_loading_tx hload (h.tx_load hload) h.tx_len h.tx_arg h.tx_filled h.tx_wf
  | setArg hload x hfits =>
    exact h.with_loading_tx hload (h.tx_load hload) h.tx_len (highByte_of_fits hfits) h.tx_filled h.tx_wf
  | push hload b hroom => exact h.tx_push hload b hroom
  | start hload => exact h.with_emitting_tx (by simp) (by simp)
  | popContent hemit hpos b hb => exact h.tx_popContent hemit hpos hb
  | popLow hemit hpos => exact h.tx_popLow hemit hpos
  | popLast hemit => exact h.with_loading_tx rfl rfl h.tx_len h.tx_arg h.tx_filled h.tx_wf

/-! ### The RX half of the invariant -/

/-- R129: the positions at which a phase occurs. -/
def RxPhase.At (c : Config) (n : Byte) (q : Nat) : RxPhase → Prop
  | .src => q = 0
  | .dst => q = 1
  | .cmd => q = 2
  | .arg0 => q = 3
  | .arg1 => q = 4 ∧ c.argBytes = .two
  | .len => q = 3 + c.argBytes.toNat
  | .payload => c.headerLen ≤ q ∧ q < c.contentLen n.toNat
  | .ck0 => q = c.contentLen n.toNat
  | .ck1 => q = c.contentLen n.toNat + 1

theorem rxPhase_at {c : Config} {n : Byte} {q : Nat} {ph : RxPhase} (h : rxPhase c n q = some ph) :
    ph.At c n q := by
  have hA := c.argBytes.toNat_one_or_two
  have hH := c.headerLen_eq
  have hpast (h3 : 3 < q) (h4 : ¬ (q = 4 ∧ c.argBytes = .two)) (hlen : q ≠ 3 + c.argBytes.toNat) :
      c.headerLen ≤ q := by
    obtain ⟨-, hn⟩ | ⟨htwo, hn⟩ := hA
    · omega
    · simp only [htwo, and_true] at h4
      omega
  unfold rxPhase at h
  split_ifs at h with h0 h1 h2 h3 h4 hlen hpay hck0 hck1 <;> obtain rfl := Option.some.inj h
  exacts [h0, h1, h2, h3, h4, hlen, ⟨hpast (by omega) h4 hlen, hpay⟩, hck0, hck1]

/-- R129 has a row for every position up to the last of the frame. -/
theorem rxPhase_isSome {c : Config} {n : Byte} {q : Nat} (h : q ≤ c.contentLen n.toNat + 1) :
    ∃ ph, rxPhase c n q = some ph := by
  refine Option.ne_none_iff_exists'.1 fun hnone => ?_
  unfold rxPhase at hnone
  split_ifs at hnone
  omega

/-- In `RECV` there is no error. -/
theorem Inv.rx_err_none {s : State} (h : Inv s) (hrecv : s.rx.state = .recv) : s.rx.err = .none := by
  by_contra hne
  simp [h.rx_err.1 hne] at hrecv

/-- R24: in `RECV` the length is within `PAYLOAD_MAX`. -/
theorem Inv.rx_len_le {s : State} (h : Inv s) (hne : s.rx.state ≠ .err) : s.rx.len ≤ s.cfg.payloadMax := by
  by_contra hgt
  exact hne (h.rx_oversize (BitVec.not_le.1 hgt)).1

theorem RxUnit.cnt_header {c : Config} {r : RxUnit} (h : r.pos.toNat ≤ c.headerLen) : r.cnt c = 0 := by
  simp [RxUnit.cnt, Nat.sub_eq_zero_of_le h]

/-- R37 (h) asks nothing of the buffer before the first payload byte. -/
theorem RxUnit.filled_header {c : Config} {r : RxUnit} (h : r.pos.toNat ≤ c.headerLen) : r.buf.filled (r.cnt c) :=
  RxUnit.cnt_header h ▸ Memory.filled_zero _

theorem RxUnit.cnt_complete {c : Config} {r : RxUnit} (h : c.contentLen r.len.toNat ≤ r.pos.toNat) :
    r.cnt c = r.len.toNat := by
  have := c.contentLen_eq r.len.toNat
  rw [RxUnit.cnt]
  omega

theorem RxUnit.cnt_payload {c : Config} {r : RxUnit} (h : r.pos.toNat ≤ c.contentLen r.len.toNat) :
    r.cnt c = r.pos.toNat - c.headerLen := by
  have := c.contentLen_eq r.len.toNat
  rw [RxUnit.cnt]
  omega

/-! `RX_PUSH` by phase: the whole unit after the byte (R116). -/

theorem RxUnit.push_src (c : Config) (b : Byte) (r : RxUnit) :
    r.push c .src b = { r with src := b, acc := accAdd r.acc b, pos := r.pos + 1 } := rfl

theorem RxUnit.push_dst (c : Config) (b : Byte) (r : RxUnit) :
    r.push c .dst b = { r with dst := b, acc := accAdd r.acc b, pos := r.pos + 1 } := rfl

theorem RxUnit.push_cmd (c : Config) (b : Byte) (r : RxUnit) :
    r.push c .cmd b = { r with cmd := b, acc := accAdd r.acc b, pos := r.pos + 1 } := rfl

theorem RxUnit.push_arg0 (c : Config) (b : Byte) (r : RxUnit) :
    r.push c .arg0 b = { r with arg := zext b, acc := accAdd r.acc b, pos := r.pos + 1 } := rfl

theorem RxUnit.push_arg1 (c : Config) (b : Byte) (r : RxUnit) :
    r.push c .arg1 b = { r with arg := joinBytes b (lowByte r.arg), acc := accAdd r.acc b, pos := r.pos + 1 } := rfl

theorem RxUnit.push_len (c : Config) (b : Byte) (r : RxUnit) :
    r.push c .len b =
      if c.payloadMax < b then
        RxUnit.raise { r with len := b, acc := accAdd r.acc b, pos := r.pos + 1 } .framing
      else { r with len := b, acc := accAdd r.acc b, pos := r.pos + 1 } := by
  simp only [RxUnit.push, RxUnit.accept]
  split_ifs <;> rfl

theorem RxUnit.push_payload (c : Config) (b : Byte) (r : RxUnit) :
    r.push c .payload b =
      { r with buf := r.buf.write (bufIndex c r.pos.toNat) b, acc := accAdd r.acc b, pos := r.pos + 1 } := rfl

theorem RxUnit.push_ck0 (c : Config) (b : Byte) (r : RxUnit) :
    r.push c .ck0 b = { r with ck := zext b, pos := r.pos + 1 } := rfl

theorem RxUnit.push_ck1 (c : Config) (b : Byte) (r : RxUnit) :
    r.push c .ck1 b =
      if joinBytes b (lowByte r.ck) = accChecksum r.acc then
        { r with ck := joinBytes b (lowByte r.ck), state := .done, pos := r.pos + 1 }
      else RxUnit.raise { r with ck := joinBytes b (lowByte r.ck), pos := r.pos + 1 } .checksum := by
  simp only [RxUnit.push, RxUnit.accept]
  split_ifs <;> rfl

/-- What the invariant asks of a unit that is receiving. -/
theorem Inv.with_receiving_rx {s : State} (h : Inv s) {r : RxUnit} (hrecv : r.state = .recv) (herr : r.err = .none)
    (hlen : r.len ≤ s.cfg.payloadMax) (hpos : r.pos.toNat ≤ s.cfg.contentLen r.len.toNat + 1)
    (hheader : r.pos.toNat < s.cfg.headerLen → r.len = 0) (harg : s.cfg.argBytes = .one → highByte r.arg = 0)
    (hfilled : r.buf.filled (r.cnt s.cfg)) (hwf : r.buf.wf) : Inv { s with rx := r } :=
  { h with
    rx_arg := harg
    rx_err := by simp [hrecv, herr]
    rx_done := fun hdone => by simp [hrecv] at hdone
    rx_recv := fun _ => hpos
    rx_header := hheader
    rx_filled := hfilled
    rx_oversize := fun hgt => absurd hlen (BitVec.not_le.2 hgt)
    rx_wf := hwf }

/-- A byte of the header before `payload_len`: whatever registers take it, no payload byte has arrived (R116). -/
theorem Inv.rx_push_header {s : State} (h : Inv s) (hrecv : s.rx.state = .recv)
    (hq : s.rx.pos.toNat + 1 < s.cfg.headerLen) (src dst cmd : Byte) (arg acc : Half)
    (harg : s.cfg.argBytes = .one → highByte arg = 0) :
    Inv { s with
      rx := { s.rx with src := src, dst := dst, cmd := cmd, arg := arg, acc := acc, pos := s.rx.pos + 1 } } := by
  have hsucc := pos_succ_toNat (h.rx_recv hrecv)
  have hC := s.cfg.contentLen_eq s.rx.len.toNat
  refine h.with_receiving_rx hrecv (h.rx_err_none hrecv) (h.rx_len_le (by simp [hrecv])) ?_
    (fun _ => h.rx_header (by omega)) harg ?_ h.rx_wf
  · show (s.rx.pos + 1).toNat ≤ s.cfg.contentLen s.rx.len.toNat + 1
    omega
  · exact RxUnit.filled_header (by show (s.rx.pos + 1).toNat ≤ s.cfg.headerLen; omega)

/-- `payload_len`: an oversize one is an error, recorded with the header complete (R24, R116). -/
theorem Inv.rx_push_len {s : State} (h : Inv s) (hrecv : s.rx.state = .recv)
    (hq : s.rx.pos.toNat + 1 = s.cfg.headerLen) (b : Byte) : Inv { s with rx := s.rx.push s.cfg .len b } := by
  have hsucc := pos_succ_toNat (h.rx_recv hrecv)
  have hC := s.cfg.contentLen_eq b.toNat
  have hpos : (s.rx.pos + 1).toNat ≤ s.cfg.headerLen := by omega
  rw [RxUnit.push_len]
  split_ifs with hgt
  · exact { h with
      rx_err := by simp
      rx_done := fun hdone => by simp at hdone
      rx_recv := fun hstate => by simp at hstate
      rx_header := fun hlt => by simp only [RxUnit.raise_pos] at hlt; omega
      rx_filled := RxUnit.filled_header hpos
      rx_oversize := fun _ => ⟨rfl, rfl, by simp only [RxUnit.raise_pos]; omega⟩ }
  · refine h.with_receiving_rx hrecv (h.rx_err_none hrecv) (BitVec.not_lt.1 hgt) ?_ (fun hlt => ?_) h.rx_arg
      (RxUnit.filled_header hpos) h.rx_wf
    · show (s.rx.pos + 1).toNat ≤ s.cfg.contentLen b.toNat + 1
      omega
    · change (s.rx.pos + 1).toNat < s.cfg.headerLen at hlt
      omega

/-- R31, R37 (h): the payload byte goes to the first index not yet counted. -/
theorem Inv.rx_push_payload {s : State} (h : Inv s) (hrecv : s.rx.state = .recv)
    (hH : s.cfg.headerLen ≤ s.rx.pos.toNat) (hq : s.rx.pos.toNat < s.cfg.contentLen s.rx.len.toNat) (b : Byte) :
    Inv { s with rx := s.rx.push s.cfg .payload b } := by
  have hsucc := pos_succ_toNat (h.rx_recv hrecv)
  have hfilled := h.rx_filled
  rw [RxUnit.cnt_payload hq.le] at hfilled
  rw [RxUnit.push_payload]
  refine h.with_receiving_rx hrecv (h.rx_err_none hrecv) (h.rx_len_le (by simp [hrecv])) ?_ (fun hlt => ?_) h.rx_arg
    ?_ (Memory.write_wf h.rx_wf _ _)
  · show (s.rx.pos + 1).toNat ≤ s.cfg.contentLen s.rx.len.toNat + 1
    omega
  · change (s.rx.pos + 1).toNat < s.cfg.headerLen at hlt
    omega
  · rw [RxUnit.cnt_payload (by show (s.rx.pos + 1).toNat ≤ s.cfg.contentLen s.rx.len.toNat; omega)]
    show Memory.filled (Memory.writeAt _ (bufIndex s.cfg s.rx.pos.toNat).toNat b) ((s.rx.pos + 1).toNat - _)
    rw [bufIndex_toNat hq, hsucc, Nat.sub_add_comm hH]
    exact Memory.filled_writeAt hfilled b

/-- The checksum bytes store nothing in the buffer, which holds the whole payload already. -/
theorem Inv.rx_filled_checksum {s : State} (h : Inv s) (hrecv : s.rx.state = .recv)
    (hq : s.cfg.contentLen s.rx.len.toNat ≤ s.rx.pos.toNat) {r : RxUnit} (hbuf : r.buf = s.rx.buf)
    (hlen : r.len = s.rx.len) (hpos : r.pos = s.rx.pos + 1) : r.buf.filled (r.cnt s.cfg) := by
  have hsucc := pos_succ_toNat (h.rx_recv hrecv)
  rw [RxUnit.cnt_complete (by rw [hlen, hpos]; omega), hbuf, hlen]
  have := h.rx_filled
  rwa [RxUnit.cnt_complete hq] at this

/-- The low checksum byte (R116). -/
theorem Inv.rx_push_ck0 {s : State} (h : Inv s) (hrecv : s.rx.state = .recv)
    (hq : s.rx.pos.toNat = s.cfg.contentLen s.rx.len.toNat) (b : Byte) :
    Inv { s with rx := s.rx.push s.cfg .ck0 b } := by
  have hsucc := pos_succ_toNat (h.rx_recv hrecv)
  have hC := s.cfg.contentLen_eq s.rx.len.toNat
  rw [RxUnit.push_ck0]
  refine h.with_receiving_rx hrecv (h.rx_err_none hrecv) (h.rx_len_le (by simp [hrecv])) ?_ (fun hlt => ?_) h.rx_arg
    (h.rx_filled_checksum hrecv hq.ge rfl rfl rfl) h.rx_wf
  · show (s.rx.pos + 1).toNat ≤ s.cfg.contentLen s.rx.len.toNat + 1
    omega
  · change (s.rx.pos + 1).toNat < s.cfg.headerLen at hlt
    omega

/-- The high checksum byte ends the frame: `DONE` when the checksum agrees, `ERR` otherwise (R116, R37 (f)). -/
theorem Inv.rx_push_ck1 {s : State} (h : Inv s) (hrecv : s.rx.state = .recv)
    (hq : s.rx.pos.toNat = s.cfg.contentLen s.rx.len.toNat + 1) (b : Byte) :
    Inv { s with rx := s.rx.push s.cfg .ck1 b } := by
  have hsucc := pos_succ_toNat (h.rx_recv hrecv)
  have hC := s.cfg.contentLen_eq s.rx.len.toNat
  have hL := s.cfg.frameLen_eq s.rx.len.toNat
  have hlen : s.rx.len ≤ s.cfg.payloadMax := h.rx_len_le (by simp [hrecv])
  have hpos : (s.rx.pos + 1).toNat = s.cfg.frameLen s.rx.len.toNat := by omega
  have hheader : (s.rx.pos + 1).toNat < s.cfg.headerLen → s.rx.len = 0 := fun hlt => by omega
  rw [RxUnit.push_ck1]
  split_ifs with heq
  · exact { h with
      rx_err := by simp [h.rx_err_none hrecv]
      rx_done := fun _ => ⟨hlen, hpos, heq⟩
      rx_recv := fun hstate => by simp at hstate
      rx_header := hheader
      rx_filled := h.rx_filled_checksum hrecv (by omega) rfl rfl rfl
      rx_oversize := fun hgt => absurd hlen (BitVec.not_le.2 hgt) }
  · exact { h with
      rx_err := by simp
      rx_done := fun hdone => by simp at hdone
      rx_recv := fun hstate => by simp at hstate
      rx_header := hheader
      rx_filled := h.rx_filled_checksum hrecv (by omega) rfl rfl rfl
      rx_oversize := fun hgt => absurd hlen (BitVec.not_le.2 hgt) }

/-- An accepted byte keeps the invariant, phase by phase. -/
theorem Inv.rx_push {s : State} (h : Inv s) (hrecv : s.rx.state = .recv) {ph : RxPhase}
    (hat : ph.At s.cfg s.rx.len s.rx.pos.toNat) (b : Byte) : Inv { s with rx := s.rx.push s.cfg ph b } := by
  have hA := s.cfg.argBytes.toNat_one_or_two
  have hH := s.cfg.headerLen_eq
  cases ph with
  | src | dst | cmd =>
    simp only [RxPhase.At] at hat
    exact h.rx_push_header hrecv (by omega) _ _ _ _ _ h.rx_arg
  | arg0 =>
    simp only [RxPhase.At] at hat
    exact h.rx_push_header hrecv (by omega) _ _ _ _ _ fun _ => highByte_zext b
  | arg1 =>
    obtain ⟨hq, htwo⟩ := hat
    have hn : s.cfg.argBytes.toNat = 2 := htwo ▸ rfl
    exact h.rx_push_header hrecv (by omega) _ _ _ _ _ fun hone => by simp [hone] at htwo
  | len =>
    simp only [RxPhase.At] at hat
    exact h.rx_push_len hrecv (by omega) b
  | payload => exact h.rx_push_payload hrecv hat.1 hat.2 b
  | ck0 => exact h.rx_push_ck0 hrecv hat b
  | ck1 => exact h.rx_push_ck1 hrecv hat b

/-- Every change of the RX unit keeps the invariant. -/
theorem RxChange.keeps_inv {s : State} {i : Instr} {r : RxUnit} (hx : RxChange s.cfg s.rx i r) (h : Inv s) :
    Inv { s with rx := r } := by
  cases hx with
  | same => exact h.congr rfl rfl rfl
  | clear =>
    exact h.with_receiving_rx rfl rfl (zero_le_payloadMax s.cfg) (by simp) (fun _ => rfl) (fun _ => highByte_zero)
      (RxUnit.filled_header (Nat.zero_le _)) h.rx_wf
  | push hrecv b ph hph => exact h.rx_push hrecv (rxPhase_at hph) b
  | truncate hrecv =>
    have hlen : s.rx.len ≤ s.cfg.payloadMax := h.rx_len_le (by simp [hrecv])
    exact { h with
      rx_err := by simp
      rx_done := fun hdone => by simp at hdone
      rx_recv := fun hstate => by simp at hstate
      rx_oversize := fun hgt => absurd hlen (BitVec.not_le.2 hgt) }

/-- One step keeps the invariant. -/
theorem step_keeps_inv {s t : State} (h : Inv s) (ht : step s = .next t) : Inv t := by
  obtain ⟨hcfg, ⟨i, htx⟩, j, hrx⟩ := step_changes ht
  have htx' : Inv { s with tx := t.tx } := htx.keeps_inv h
  have hrx' : Inv { s with tx := t.tx, rx := t.rx } := RxChange.keeps_inv (s := { s with tx := t.tx }) hrx htx'
  exact hrx'.congr hcfg rfl rfl

/-! ### What the RX registers say of the bytes received -/

/-- Before the first payload byte only the registers are in the sum. -/
theorem RxUnit.contentSum_header {c : Config} {r : RxUnit} (h : r.pos.toNat ≤ c.headerLen) :
    r.contentSum c =
      r.src.toNat + r.dst.toNat + r.cmd.toNat + (lowByte r.arg).toNat + (highByte r.arg).toNat + r.len.toNat := by
  rw [RxUnit.contentSum, RxUnit.cnt_header h, Memory.slice_zero, byteSum_nil, Nat.add_zero]

/-- R28: one more content byte in the unit, and the same byte in the accumulator. -/
theorem Received.accAdd_toNat {s : State} (h : Received s) {b : Byte} {n : Nat}
    (hn : n = s.rx.contentSum s.cfg + b.toNat) : (accAdd s.rx.acc b).toNat = n % 65536 := by
  rw [Machine.accAdd_toNat, h.acc, hn, Nat.mod_add_mod]

/-- A register that takes its byte at position `k` and stays otherwise is 0 until the position is past `k`. -/
theorem zero_until_arrival {n k q q' : Nat} {x x' : BitVec n} (hq : q' = q + 1) (hzero : q ≤ k → x = 0)
    (hx : q = k ∨ x' = x) (hk : q' ≤ k) : x' = 0 := by
  rcases hx with hx | rfl
  · omega
  · exact hzero (by omega)

/-- R24, R29: when the position advances by one, each register either takes its byte at its own position or stays. -/
theorem Received.advance {s : State} (h : Received s) {r : RxUnit} (hpos : r.pos.toNat = s.rx.pos.toNat + 1)
    (src : s.rx.pos.toNat = 0 ∨ r.src = s.rx.src) (dst : s.rx.pos.toNat = 1 ∨ r.dst = s.rx.dst)
    (cmd : s.rx.pos.toNat = 2 ∨ r.cmd = s.rx.cmd)
    (arg : s.rx.pos.toNat = 3 ∧ highByte r.arg = 0 ∨ s.rx.pos.toNat = 4 ∨ r.arg = s.rx.arg)
    (len : s.rx.pos.toNat = 3 + s.cfg.argBytes.toNat ∨ r.len = s.rx.len)
    (ck : r.ck = s.rx.ck ∨ s.rx.pos.toNat = s.cfg.contentLen r.len.toNat ∧ highByte r.ck = 0 ∨
      s.rx.pos.toNat = s.cfg.contentLen r.len.toNat + 1)
    (acc : r.acc.toNat = r.contentSum s.cfg % 65536) : Received { s with rx := r } := by
  have hH := s.cfg.headerLen_eq
  have hC := s.cfg.contentLen_eq s.rx.len.toNat
  have hbefore {k : Nat} (hk : r.pos.toNat ≤ s.cfg.contentLen r.len.toNat + k) :
      s.rx.pos.toNat ≤ s.cfg.contentLen s.rx.len.toNat + k := by
    rcases len with hq | hlen
    · omega
    · rw [hlen] at hk
      omega
  refine ⟨zero_until_arrival hpos h.src src, zero_until_arrival hpos h.dst dst, zero_until_arrival hpos h.cmd cmd,
    fun hq => ?_, fun hq => ?_, zero_until_arrival hpos h.len len, fun hq => ?_, fun hq => ?_, acc⟩
  · change r.pos.toNat ≤ 3 at hq
    obtain ⟨h3, -⟩ | h4 | hsame := arg
    · omega
    · omega
    · exact hsame ▸ h.arg_low (by omega)
  · change r.pos.toNat ≤ 4 at hq
    obtain ⟨-, hhigh⟩ | h4 | hsame := arg
    · exact hhigh
    · omega
    · exact hsame ▸ h.arg_high (by omega)
  · change r.pos.toNat ≤ s.cfg.contentLen r.len.toNat at hq
    obtain hsame | ⟨hck0, -⟩ | hck1 := ck
    · exact hsame ▸ h.ck_low (hbefore (k := 0) hq)
    · omega
    · omega
  · change r.pos.toNat ≤ s.cfg.contentLen r.len.toNat + 1 at hq
    obtain hsame | ⟨-, hhigh⟩ | hck1 := ck
    · exact hsame ▸ h.ck_high (hbefore hq)
    · exact hhigh
    · omega

/-- R28: a header byte enters the sum through its own register. -/
theorem Received.acc_header {s : State} (h : Received s) {r : RxUnit} {b : Byte}
    (hpos : r.pos.toNat = s.rx.pos.toNat + 1) (hq : r.pos.toNat ≤ s.cfg.headerLen) (hacc : r.acc = accAdd s.rx.acc b)
    (hsum : r.src.toNat + r.dst.toNat + r.cmd.toNat + (lowByte r.arg).toNat + (highByte r.arg).toNat + r.len.toNat =
      s.rx.src.toNat + s.rx.dst.toNat + s.rx.cmd.toNat + (lowByte s.rx.arg).toNat + (highByte s.rx.arg).toNat
        + s.rx.len.toNat + b.toNat) :
    r.acc.toNat = r.contentSum s.cfg % 65536 := by
  rw [hacc]
  apply h.accAdd_toNat
  rw [RxUnit.contentSum_header hq, RxUnit.contentSum_header (r := s.rx) (by omega), hsum]

/-- `payload_len`: the register takes its byte, whether or not it is oversize. -/
theorem Received.push_len {s : State} (h : Received s) (b : Byte) (hq : s.rx.pos.toNat + 1 = s.cfg.headerLen)
    (hsucc : (s.rx.pos + 1).toNat = s.rx.pos.toNat + 1) : Received { s with rx := s.rx.push s.cfg .len b } := by
  have hH := s.cfg.headerLen_eq
  have hzero : s.rx.len = 0 := h.len (by omega)
  have htaken : Received { s with rx := { s.rx with len := b, acc := accAdd s.rx.acc b, pos := s.rx.pos + 1 } } :=
    h.advance hsucc (.inr rfl) (.inr rfl) (.inr rfl) (.inr (.inr rfl)) (.inl (by omega)) (.inl rfl)
      (h.acc_header hsucc (hsucc ▸ hq.le) rfl (by simp [hzero]))
  rw [RxUnit.push_len]
  split_ifs
  · exact { htaken with }
  · exact htaken

/-- R28: a payload byte enters the sum through the buffer, at the first index not yet counted. -/
theorem RxUnit.contentSum_payload {c : Config} {r : RxUnit} {b : Byte} (hH : c.headerLen ≤ r.pos.toNat)
    (hq : r.pos.toNat < c.contentLen r.len.toNat) (hsucc : (r.pos + 1).toNat = r.pos.toNat + 1) :
    (r.push c .payload b).contentSum c = r.contentSum c + b.toNat := by
  have hcnt : (r.push c .payload b).cnt c = r.pos.toNat - c.headerLen + 1 := by
    rw [RxUnit.cnt_payload (by show (r.pos + 1).toNat ≤ c.contentLen r.len.toNat; omega)]
    show (r.pos + 1).toNat - c.headerLen = _
    omega
  have hbuf : (r.push c .payload b).buf.slice (r.pos.toNat - c.headerLen + 1) =
      r.buf.slice (r.pos.toNat - c.headerLen) ++ [b] := by
    show Memory.slice (Memory.writeAt r.buf (bufIndex c r.pos.toNat).toNat b) _ = _
    rw [bufIndex_toNat hq, Memory.slice_writeAt]
  rw [RxUnit.contentSum, hcnt, hbuf, byteSum_append, byteSum_singleton, RxUnit.contentSum, RxUnit.cnt_payload hq.le]
  exact (Nat.add_assoc ..).symm

/-- The checksum bytes are no content (R28). -/
theorem RxUnit.contentSum_checksum {c : Config} {r : RxUnit} (hq : c.contentLen r.len.toNat ≤ r.pos.toNat) (ck : Half)
    {p : Pos} (hp : p.toNat = r.pos.toNat + 1) :
    RxUnit.contentSum c { r with ck := ck, pos := p } = r.contentSum c := by
  have hcnt : RxUnit.cnt c { r with ck := ck, pos := p } = r.cnt c := by
    rw [RxUnit.cnt_complete hq, RxUnit.cnt_complete (by show c.contentLen r.len.toNat ≤ p.toNat; omega)]
  rw [RxUnit.contentSum, hcnt, RxUnit.contentSum]

/-- The high checksum byte: the register takes it, whether or not the checksum agrees. -/
theorem Received.push_ck1 {s : State} (h : Received s) (b : Byte)
    (hq : s.rx.pos.toNat = s.cfg.contentLen s.rx.len.toNat + 1)
    (hsucc : (s.rx.pos + 1).toNat = s.rx.pos.toNat + 1) : Received { s with rx := s.rx.push s.cfg .ck1 b } := by
  have htaken : Received { s with rx := { s.rx with ck := joinBytes b (lowByte s.rx.ck), pos := s.rx.pos + 1 } } :=
    h.advance hsucc (.inr rfl) (.inr rfl) (.inr rfl) (.inr (.inr rfl)) (.inr rfl) (.inr (.inr hq))
      (by rw [RxUnit.contentSum_checksum (by omega) _ hsucc]; exact h.acc)
  rw [RxUnit.push_ck1]
  split_ifs
  · exact { htaken with }
  · exact { htaken with }

/-- An accepted byte keeps what the registers say, phase by phase. -/
theorem Received.push {s : State} (h : Received s) {ph : RxPhase} (hat : ph.At s.cfg s.rx.len s.rx.pos.toNat)
    (hsucc : (s.rx.pos + 1).toNat = s.rx.pos.toNat + 1) (b : Byte) :
    Received { s with rx := s.rx.push s.cfg ph b } := by
  have hH := s.cfg.headerLen_eq
  have hheader (hle : s.rx.pos.toNat + 1 ≤ s.cfg.headerLen) : (s.rx.pos + 1).toNat ≤ s.cfg.headerLen := hsucc ▸ hle
  cases ph with
  | src =>
    simp only [RxPhase.At] at hat
    have hzero := h.src (by omega)
    exact h.advance hsucc (.inl hat) (.inr rfl) (.inr rfl) (.inr (.inr rfl)) (.inr rfl) (.inl rfl)
      (h.acc_header hsucc (hheader (by omega)) rfl (by simp [RxUnit.push_src, hzero]; omega))
  | dst =>
    simp only [RxPhase.At] at hat
    have hzero := h.dst (by omega)
    exact h.advance hsucc (.inr rfl) (.inl hat) (.inr rfl) (.inr (.inr rfl)) (.inr rfl) (.inl rfl)
      (h.acc_header hsucc (hheader (by omega)) rfl (by simp [RxUnit.push_dst, hzero]; omega))
  | cmd =>
    simp only [RxPhase.At] at hat
    have hzero := h.cmd (by omega)
    exact h.advance hsucc (.inr rfl) (.inr rfl) (.inl hat) (.inr (.inr rfl)) (.inr rfl) (.inl rfl)
      (h.acc_header hsucc (hheader (by omega)) rfl (by simp [RxUnit.push_cmd, hzero]; omega))
  | arg0 =>
    simp only [RxPhase.At] at hat
    have hzero := h.arg_low (by omega)
    exact h.advance hsucc (.inr rfl) (.inr rfl) (.inr rfl) (.inl ⟨hat, highByte_zext b⟩) (.inr rfl) (.inl rfl)
      (h.acc_header hsucc (hheader (by omega)) rfl (by simp [RxUnit.push_arg0, hzero]; omega))
  | arg1 =>
    obtain ⟨hq, htwo⟩ := hat
    have hn : s.cfg.argBytes.toNat = 2 := htwo ▸ rfl
    have hzero := h.arg_high (by omega)
    exact h.advance hsucc (.inr rfl) (.inr rfl) (.inr rfl) (.inr (.inl hq)) (.inr rfl) (.inl rfl)
      (h.acc_header hsucc (hheader (by omega)) rfl
        (by simp only [RxUnit.push_arg1, highByte_joinBytes, lowByte_joinBytes, hzero]; simp; omega))
  | len =>
    simp only [RxPhase.At] at hat
    exact h.push_len b (by omega) hsucc
  | payload =>
    obtain ⟨hle, hlt⟩ := hat
    exact h.advance hsucc (.inr rfl) (.inr rfl) (.inr rfl) (.inr (.inr rfl)) (.inr rfl) (.inl rfl)
      (h.accAdd_toNat (RxUnit.contentSum_payload hle hlt hsucc))
  | ck0 =>
    simp only [RxPhase.At] at hat
    exact h.advance hsucc (.inr rfl) (.inr rfl) (.inr rfl) (.inr (.inr rfl)) (.inr rfl)
      (.inr (.inl ⟨hat, highByte_zext b⟩))
      (by rw [RxUnit.push_ck0, RxUnit.contentSum_checksum hat.ge _ hsucc]; exact h.acc)
  | ck1 => exact h.push_ck1 b hat hsucc

/-- With every register at its reset value nothing has arrived, whatever the buffer holds. -/
theorem Received.rearm (s : State) : Received { s with rx := s.rx.rearm } := by
  refine ⟨fun _ => rfl, fun _ => rfl, fun _ => rfl, fun _ => rfl, fun _ => highByte_zero, fun _ => rfl, fun _ => rfl,
    fun _ => highByte_zero, ?_⟩
  rw [RxUnit.contentSum_header (by simp)]
  simp

/-- Every change of the RX unit keeps what the registers say. -/
theorem RxChange.keeps_received {s : State} {i : Instr} {r : RxUnit} (hx : RxChange s.cfg s.rx i r) (hi : Inv s)
    (h : Received s) : Received { s with rx := r } := by
  cases hx with
  | same => exact h.congr rfl rfl
  | clear => exact .rearm s
  | push hrecv b ph hph => exact h.push (rxPhase_at hph) (pos_succ_toNat (hi.rx_recv hrecv)) b
  | truncate => exact { h with }

/-- One step keeps what the RX registers say. -/
theorem step_keeps_received {s t : State} (hi : Inv s) (h : Received s) (ht : step s = .next t) : Received t := by
  obtain ⟨hcfg, -, i, hrx⟩ := step_changes ht
  exact (hrx.keeps_received hi h).congr hcfg rfl

/-! ### Runs -/

/-- R42, R37 (h): a filled index has a byte. -/
theorem Memory.read_of_filled {m : Memory} {n : Nat} (h : m.filled n) {i : Byte} (hi : i.toNat < n) :
    ∃ b, m.read i = some b :=
  Option.isSome_iff_exists.1 (h i.toNat hi)

/-- R100: under the invariant `TX_POP` finds its byte. -/
theorem execTxPop_completes {s : State} (h : Inv s) : ∃ t, execTxPop s = .next t := by
  unfold execTxPop
  cases hs : s.tx.state with
  | load => exact ⟨_, rfl⟩
  | emit =>
    split_ifs with hpos
    · obtain ⟨b, hb⟩ : ∃ b, txByte s.cfg s.tx s.tx.pos.toNat = some b := by
        rw [txByte_eq_content h.tx_filled hpos]
        exact ⟨_, List.getElem?_eq_getElem (by rwa [contentBytes_packet_length h.tx_filled])⟩
      simp [popContent, hb, complete]
    · exact ⟨_, rfl⟩
    · exact ⟨_, rfl⟩

/-- R116: under the invariant `RX_PUSH` in `RECV` is inside the frame. -/
theorem execRxPush_completes {s : State} (h : Inv s) (b : Byte) : ∃ t, execRxPush b s = .next t := by
  unfold execRxPush
  cases hs : s.rx.state with
  | recv =>
    obtain ⟨ph, hph⟩ := rxPhase_isSome (h.rx_recv hs)
    simp [hph, complete]
  | done | err => exact ⟨_, rfl⟩

/-- R124: under the invariant `RX_RDBUF` below the count finds its byte. -/
theorem execRxRdBuf_completes {s : State} (h : Inv s) (j : Byte) : ∃ t, execRxRdBuf j s = .next t := by
  unfold execRxRdBuf
  split_ifs with hj
  · exact ⟨_, rfl⟩
  · obtain ⟨b, hb⟩ := Memory.read_of_filled h.rx_filled (Nat.not_le.1 hj)
    simp [hb, complete]

/-- A check before an operation that completes leaves it complete. -/
theorem whileLoading_completes {s : State} {r : Result} (h : ∃ t, r = .next t) : ∃ t, whileLoading s r = .next t := by
  unfold whileLoading
  cases s.tx.state with
  | load => exact h
  | emit => exact ⟨_, rfl⟩

/-- R191: under the invariant every operation answers a next state. -/
theorem exec_completes {s : State} (h : Inv s) (i : Instr) : ∃ t, exec i s = .next t := by
  cases i with
  | txPop => exact execTxPop_completes h
  | rxPush b => exact execRxPush_completes h b
  | rxRdBuf j => exact execRxRdBuf_completes h j
  | txSetSrc | txSetDst | txSetCmd | txStart => exact whileLoading_completes ⟨_, rfl⟩
  | txSetArg | txPush =>
    refine whileLoading_completes ?_
    split_ifs
    · exact ⟨_, rfl⟩
    · exact ⟨_, rfl⟩
  | csClr | csAdd | csGet | txClr | txStat | txGetLen | rxClr | rxEnd | rxStat | rxGetSrc | rxGetDst | rxGetCmd
  | rxGetArg | rxGetLen | rxGetCk | rxGetCalc | addrCls | cfgGet => exact ⟨_, rfl⟩

/-- R191: under the invariant every step answers a next state. -/
theorem step_completes {s : State} (h : Inv s) : ∃ t, step s = .next t := by
  cases hp : s.pending with
  | nil => exact ⟨s, by simp [step, State.take_nil hp]⟩
  | cons e rest =>
    cases e with
    | reset => exact ⟨State.applyReset { s with pending := rest }, by simp [step, State.take_cons hp]⟩
    | command w =>
      cases hd : decode w with
      | ok i =>
        have hrest : Inv { s with pending := rest } := h.congr rfl rfl rfl
        simpa only [step_of_decode_ok hp hd] using exec_completes hrest i
      | error e => exact ⟨_, step_of_decode_error hp hd⟩

/-- A run takes its first step first. -/
theorem run_succ {s u : State} (hu : step s = .next u) (k : Nat) :
    Sys2Proof.core.run (k + 1) s = Sys2Proof.core.run k u := by
  have hu' : Sys2Proof.core.step s = .next u := hu
  simp [Host.Core.run, hu']

/-- What holds at the start of a run, lets a step answer and is kept by it holds after every number of steps. -/
theorem run_of_step {P : State → Prop} (hstep : ∀ s, P s → ∃ t, step s = .next t ∧ P t) (k : Nat) {s : State}
    (h : P s) : ∃ t, Sys2Proof.core.run k s = .next t ∧ P t := by
  induction k generalizing s with
  | zero => exact ⟨s, rfl, h⟩
  | succ k ih =>
    obtain ⟨u, hu, hPu⟩ := hstep s h
    obtain ⟨t, ht, hPt⟩ := ih hPu
    exact ⟨t, (run_succ hu k).trans ht, hPt⟩

/-- A run from a state that meets the invariant does not stop, and keeps the invariant and the parameters. -/
theorem run_keeps_inv (k : Nat) {s : State} (h : Inv s) :
    ∃ t, Sys2Proof.core.run k s = .next t ∧ Inv t ∧ t.cfg = s.cfg :=
  run_of_step (P := fun t => Inv t ∧ t.cfg = s.cfg)
    (fun _ ⟨hu, hcfg⟩ =>
      have ⟨t, ht⟩ := step_completes hu
      ⟨t, ht, step_keeps_inv hu ht, (step_changes ht).1.trans hcfg⟩)
    k ⟨h, rfl⟩

/-- Under the invariant the Packet the TX unit holds is well-formed, so it has a frame (R11, R90). -/
theorem Inv.packet_wellFormed {s : State} (h : Inv s) : s.tx.packet.wellFormed s.cfg = true := by
  have hfits : s.cfg.argBytes.fits s.tx.arg = true := by
    cases ha : s.cfg.argBytes with
    | one => simpa [ArgBytes.fits, highByte] using h.tx_arg ha
    | two => rfl
  simpa [Packet.wellFormed, TxUnit.packet, hfits, Memory.slice_length h.tx_filled] using BitVec.le_def.1 h.tx_len

/-- R37 (c) in the words of the rule: `TX_ACC` is the sum of the bytes of `Encode(p)` delivered so far. -/
theorem Inv.tx_acc_encode {s : State} (h : Inv s) (hemit : s.tx.state = .emit) :
    ∃ f, encodeFrame s.cfg s.tx.packet = some f ∧
      s.tx.acc.toNat = byteSum (f.take (min s.tx.pos.toNat (s.cfg.contentLen s.tx.len.toNat))) % 65536 := by
  refine ⟨_, if_pos h.packet_wellFormed, ?_⟩
  rw [List.take_append_of_le_length]
  · exact h.tx_emit_acc hemit
  · rw [contentBytes_packet_length h.tx_filled]
    exact Nat.min_le_right ..

/-! ### Power-up -/

theorem powerUp_inv (c : Config) : Inv (State.powerUp c) where
  tx_len := zero_le_payloadMax c
  tx_load := fun _ => rfl
  tx_emit_pos := fun hemit => nomatch hemit
  tx_emit_acc := fun hemit => nomatch hemit
  tx_arg := fun _ => highByte_zero
  rx_arg := fun _ => highByte_zero
  rx_err := by simp [State.powerUp, RxUnit.atReset]
  rx_done := fun hdone => nomatch hdone
  rx_recv := fun _ => Nat.zero_le _
  rx_header := fun _ => rfl
  tx_filled := Memory.filled_zero _
  rx_filled := RxUnit.filled_header (Nat.zero_le _)
  rx_oversize := fun hgt => absurd (zero_le_payloadMax c) (BitVec.not_le.2 hgt)
  tx_wf := Memory.empty_wf
  rx_wf := Memory.empty_wf

theorem powerUp_received (c : Config) : Received (State.powerUp c) :=
  (Received.rearm (State.powerUp c)).congr rfl rfl

/-! ### The obligations -/

/-- Settles O14: a step changes each unit as some operation does (`step_changes`), and every such change keeps `Inv`. -/
theorem everyStepKeepsTheInvariant : Obligations.EveryStepKeepsTheInvariant :=
  fun _ _ => step_keeps_inv

/-- Settles O16: only the RX unit matters, and its changes keep what it says under the invariant. -/
theorem everyStepKeepsReceivedSum : Obligations.EveryStepKeepsReceivedSum :=
  fun _ _ => step_keeps_received

/-- Settles O15, by induction on the steps (`run_keeps_inv`) from power-up. -/
theorem everyReachableStateMeetsTheInvariant : Obligations.EveryReachableStateMeetsTheInvariant := by
  intro c events k _
  have hstart : Inv { State.powerUp c with pending := events } := (powerUp_inv c).congr rfl rfl rfl
  obtain ⟨t, hrun, h, hcfg⟩ := run_keeps_inv k hstart
  obtain rfl : t.cfg = c := hcfg
  exact ⟨t, hrun, rfl, h.tx_len, h.tx_load, fun hemit => ⟨h.tx_emit_pos hemit, h.tx_acc_encode hemit⟩,
    fun hone => ⟨h.tx_arg hone, h.rx_arg hone⟩, h.rx_err, h.rx_done, h.rx_recv, h.tx_filled, h.rx_filled⟩

/-- Settles O53: `exec_changes`, and the writers of each unit. -/
theorem onlyTheListedOperationsWriteEachRegister : Obligations.OnlyTheListedOperationsWriteEachRegister := by
  intro i s t hexec
  have h := exec_changes hexec
  obtain ⟨src, dst, cmd, arg, len, state, pos, acc, buf⟩ := h.tx.written_by
  exact ⟨h.cfg, h.pending, h.cs.written_by, src, dst, cmd, arg, len, state, pos, acc, buf, h.rx.written_by⟩

/-- Settles O11: each value is the one the power-up state is written with. -/
theorem powerUpRegisterValues : Obligations.PowerUpRegisterValues :=
  ⟨fun _ => ⟨⟨rfl, rfl, rfl⟩, rfl, rfl, rfl, rfl, rfl⟩, rfl⟩

/-- Settles O13: `State.reset` is the power-up state of the default parameters. -/
theorem invariantsHoldAtReset : Obligations.InvariantsHoldAtReset :=
  ⟨fun c => ⟨powerUp_inv c, powerUp_received c⟩, powerUp_inv {}, powerUp_received {}⟩

end Sys2Proof.Machine
end

section
/-!
PROOFS. 20_memory.md: buffer bytes at or past `TX_LEN` and `RX_CNT` are unobservable (R53), where an operation faults
(logs 6 and 7), and the step with nothing pending (R47, log 2). Two states that may differ in stale bytes are written
`s` and `s.withBuffers m n`; `exec_simulates` follows one operation in both.
-/

open Sys2Proof Sys2Proof.Machine Sys2Proof.Certificates

namespace Sys2Proof.Machine

/-! ### A step without a command word -/

/-- R47 (log 2): an idle port leaves the block as it is. -/
theorem step_of_pending_nil {s : State} (hp : s.pending = []) : step s = .next s := by
  simp [step, State.take_nil hp]

/-- R175: a reset is taken off the port and performed. -/
theorem step_of_reset {s : State} {rest : List PortEvent} (hp : s.pending = .reset :: rest) :
    step s = .next (State.applyReset { s with pending := rest }) := by
  simp [step, State.take_cons hp]

/-! ### Where an operation faults -/

/-- R106 (log 6): a content position has no byte exactly when it is a payload position whose index nothing has
written; the header comes from registers. -/
theorem txByte_eq_none_iff {c : Config} {t : TxUnit} {q : Nat} (hq : q < c.contentLen t.len.toNat) :
    txByte c t q = none ↔ c.headerLen ≤ q ∧ t.buf.read (bufIndex c q) = none := by
  rcases Nat.lt_or_ge q c.headerLen with hlt | hle
  · rw [txByte_header c t hlt, List.getElem?_eq_none_iff, headerBytes_length]
    exact ⟨fun hge => absurd hlt hge.not_gt, fun ⟨hge, _⟩ => hge⟩
  · rw [txByte_payload c t hle hq, Memory.read, bufIndex_toNat hq]
    exact ⟨fun hnone => ⟨hle, hnone⟩, fun ⟨_, hnone⟩ => hnone⟩

/-- R129: every row is at a position of the frame. -/
theorem RxPhase.At.pos_le {c : Config} {n : Byte} {q : Nat} {ph : RxPhase} (h : ph.At c n q) :
    q ≤ c.contentLen n.toNat + 1 := by
  have hH := c.headerLen_eq
  have hC := c.contentLen_eq n.toNat
  cases ph <;> simp only [RxPhase.At] at h <;> omega

/-- R129 (log 7): exactly the positions past the last of the frame have no row. -/
theorem rxPhase_eq_none_iff {c : Config} {n : Byte} {q : Nat} :
    rxPhase c n q = none ↔ c.contentLen n.toNat + 1 < q := by
  refine ⟨fun hnone => ?_, fun hpast => ?_⟩
  · by_contra hle
    obtain ⟨ph, hph⟩ := rxPhase_isSome (Nat.not_lt.1 hle)
    simp [hnone] at hph
  · exact Option.eq_none_iff_forall_ne_some.2 fun ph hph => hpast.not_ge (rxPhase_at hph).pos_le

/-- `TX_POP` faults in `EMIT` at a payload position whose byte is not written, and nowhere else. -/
theorem execTxPop_eq_fault_iff {s : State} {f : Fault} :
    execTxPop s = .fault f ↔
      s.tx.state = .emit ∧ s.cfg.headerLen ≤ s.tx.pos.toNat ∧ s.tx.pos.toNat < s.cfg.contentLen s.tx.len.toNat ∧
        s.tx.buf.read (bufIndex s.cfg s.tx.pos.toNat) = none ∧
        f = .unwrittenByte .txBuf (bufIndex s.cfg s.tx.pos.toNat) := by
  unfold execTxPop
  cases hs : s.tx.state with
  | load => simp [refuse]
  | emit =>
    split_ifs with hcontent hlow
    · have hnone := txByte_eq_none_iff hcontent
      unfold popContent
      cases hb : txByte s.cfg s.tx s.tx.pos.toNat with
      | some b =>
        simp only [hb, reduceCtorEq, false_iff] at hnone
        simp only [complete, reduceCtorEq, false_iff]
        exact fun ⟨_, hH, _, hread, _⟩ => hnone ⟨hH, hread⟩
      | none =>
        obtain ⟨hH, hread⟩ := hnone.1 hb
        simp [hcontent, hH, hread, eq_comm]
    · simp [popChecksumLow, complete, hcontent]
    · simp [popLast, complete, hcontent]

/-- `RX_PUSH` faults in `RECV` at a position past the end of the frame, and nowhere else. -/
theorem execRxPush_eq_fault_iff {b : Byte} {s : State} {f : Fault} :
    execRxPush b s = .fault f ↔
      s.rx.state = .recv ∧ s.cfg.contentLen s.rx.len.toNat + 1 < s.rx.pos.toNat ∧
        f = .positionPastFrame s.rx.pos := by
  rw [← rxPhase_eq_none_iff]
  unfold execRxPush
  cases hs : s.rx.state with
  | recv => cases hph : rxPhase s.cfg s.rx.len s.rx.pos.toNat <;> simp [complete, eq_comm]
  | done | err => simp [refuse]

/-- `RX_RDBUF` faults at an accepted index whose byte is not written, and nowhere else. -/
theorem execRxRdBuf_eq_fault_iff {j : Byte} {s : State} {f : Fault} :
    execRxRdBuf j s = .fault f ↔
      j.toNat < s.rx.cnt s.cfg ∧ s.rx.buf.read j = none ∧ f = .unwrittenByte .rxBuf j := by
  unfold execRxRdBuf
  split_ifs with hj
  · simp [refuse, Nat.not_lt.2 hj]
  · cases hb : s.rx.buf.read j <;> simp [complete, Nat.not_le.1 hj, eq_comm]

theorem execTxPop_ne_refused (s : State) (r : Refusal) : execTxPop s ≠ .refused r := by
  unfold execTxPop
  cases s.tx.state with
  | load => simp [refuse]
  | emit =>
    split_ifs
    · unfold popContent
      cases txByte s.cfg s.tx s.tx.pos.toNat <;> simp [complete]
    · simp [popChecksumLow, complete]
    · simp [popLast, complete]

theorem execRxPush_ne_refused (b : Byte) (s : State) (r : Refusal) : execRxPush b s ≠ .refused r := by
  unfold execRxPush
  cases s.rx.state with
  | recv => cases rxPhase s.cfg s.rx.len s.rx.pos.toNat <;> simp [complete]
  | done | err => simp [refuse]

theorem execRxRdBuf_ne_refused (j : Byte) (s : State) (r : Refusal) : execRxRdBuf j s ≠ .refused r := by
  unfold execRxRdBuf
  split_ifs
  · simp [refuse]
  · cases s.rx.buf.read j <;> simp [complete]

/-- Every operation but the three that depend on a buffer byte or a frame position completes in every state. -/
theorem exec_completes_of_not_partial {i : Instr} (hpop : i ≠ .txPop) (hpush : ∀ b, i ≠ .rxPush b)
    (hrd : ∀ j, i ≠ .rxRdBuf j) (s : State) : ∃ t, exec i s = .next t := by
  cases i with
  | txPop => exact absurd rfl hpop
  | rxPush b => exact absurd rfl (hpush b)
  | rxRdBuf j => exact absurd rfl (hrd j)
  | txSetSrc | txSetDst | txSetCmd | txStart => exact whileLoading_completes ⟨_, rfl⟩
  | txSetArg | txPush =>
    refine whileLoading_completes ?_
    split_ifs
    · exact ⟨_, rfl⟩
    · exact ⟨_, rfl⟩
  | csClr | csAdd | csGet | txClr | txStat | txGetLen | rxClr | rxEnd | rxStat | rxGetSrc | rxGetDst | rxGetCmd
  | rxGetArg | rxGetLen | rxGetCk | rxGetCalc | addrCls | cfgGet => exact ⟨_, rfl⟩

/-! ### Buffers that agree below a length -/

/-- Two memories hold the same bytes at the first `k` indices, written or not. -/
def Memory.AgreeBelow (k : Nat) (m m' : Memory) : Prop := ∀ i < k, m.readAt i = m'.readAt i

theorem Memory.agreeBelow_zero {m m' : Memory} : m.AgreeBelow 0 m' := fun i hi => absurd hi (Nat.not_lt_zero i)

theorem Memory.AgreeBelow.read {k : Nat} {m m' : Memory} (h : m.AgreeBelow k m') {j : Byte} (hj : j.toNat < k) :
    m'.read j = m.read j :=
  (h j.toNat hj).symm

/-- R53: the first stale byte stops being stale by being written. -/
theorem Memory.AgreeBelow.write {m m' : Memory} {i : Byte} (h : m.AgreeBelow i.toNat m') (b : Byte) :
    (m.write i b).AgreeBelow (i.toNat + 1) (m'.write i b) := by
  intro j hj
  simp only [Memory.write, Memory.readAt_writeAt]
  split_ifs with hji
  · rfl
  · exact h j (by omega)

/-- Before the first payload byte every received byte is stale (R31). -/
theorem RxUnit.agreeBelow_header {c : Config} {r : RxUnit} {n : Memory} (h : r.pos.toNat ≤ c.headerLen) :
    r.buf.AgreeBelow (r.cnt c) n :=
  RxUnit.cnt_header h ▸ Memory.agreeBelow_zero

/-! ### The units with other buffer contents -/

/-- The content byte at a content position is the same: a payload position is below `TX_LEN` (R106). -/
theorem txByte_withBuf {c : Config} {t : TxUnit} {m : Memory} (hm : t.buf.AgreeBelow t.len.toNat m) {q : Nat}
    (hq : q < c.contentLen t.len.toNat) : txByte c { t with buf := m } q = txByte c t q := by
  rcases Nat.lt_or_ge q c.headerLen with hlt | hle
  · rw [txByte_header c _ hlt, txByte_header c t hlt]
    rfl
  · have hC := c.contentLen_eq t.len.toNat
    rw [txByte_payload c { t with buf := m } hle hq, txByte_payload c t hle hq]
    exact (hm _ (by omega)).symm

/-- R116: the byte does the same to every register, and goes to the first index not yet counted when it is a payload
byte. -/
theorem RxUnit.push_withBuf {c : Config} {r : RxUnit} {n : Memory} {ph : RxPhase}
    (hph : rxPhase c r.len r.pos.toNat = some ph) (hn : r.buf.AgreeBelow (r.cnt c) n) (b : Byte) :
    ∃ n', RxUnit.push c ph b { r with buf := n } = { r.push c ph b with buf := n' } ∧
      (r.push c ph b).buf.AgreeBelow ((r.push c ph b).cnt c) n' := by
  have hH := c.headerLen_eq
  have hC := c.contentLen_eq r.len.toNat
  have hat := rxPhase_at hph
  have hsucc := pos_succ_toNat hat.pos_le
  have hheader (hq : r.pos.toNat + 1 ≤ c.headerLen) {r' : RxUnit} (hpos : r'.pos = r.pos + 1) :
      r'.buf.AgreeBelow (r'.cnt c) n := RxUnit.agreeBelow_header (by rw [hpos]; omega)
  have hchecksum (hq : c.contentLen r.len.toNat ≤ r.pos.toNat) {r' : RxUnit} (hpos : r'.pos = r.pos + 1)
      (hlen : r'.len = r.len) : r.buf.AgreeBelow (r'.cnt c) n := by
    rw [RxUnit.cnt_complete (by rw [hlen, hpos]; omega), hlen]
    rwa [RxUnit.cnt_complete hq] at hn
  cases ph with
  | src | dst | cmd | arg0 =>
    simp only [RxPhase.At] at hat
    exact ⟨n, rfl, hheader (by omega) rfl⟩
  | arg1 =>
    obtain ⟨hq, htwo⟩ := hat
    have hn2 : c.argBytes.toNat = 2 := htwo ▸ rfl
    exact ⟨n, rfl, hheader (by omega) rfl⟩
  | len =>
    simp only [RxPhase.At] at hat
    refine ⟨n, ?_, hheader (by omega) rfl⟩
    rw [RxUnit.push_len, RxUnit.push_len]
    split_ifs <;> rfl
  | payload =>
    obtain ⟨hle, hlt⟩ := hat
    refine ⟨n.write (bufIndex c r.pos.toNat) b, rfl, ?_⟩
    rw [RxUnit.cnt_payload hlt.le, ← bufIndex_toNat hlt] at hn
    rw [RxUnit.cnt_payload (by show (r.pos + 1).toNat ≤ c.contentLen r.len.toNat; omega)]
    show Memory.AgreeBelow ((r.pos + 1).toNat - c.headerLen) _ _
    rw [hsucc, Nat.sub_add_comm hle, ← bufIndex_toNat hlt]
    exact hn.write b
  | ck0 => exact ⟨n, rfl, hchecksum (Nat.le_of_eq hat.symm) rfl rfl⟩
  | ck1 =>
    simp only [RxPhase.At] at hat
    rw [RxUnit.push_ck1, RxUnit.push_ck1]
    split_ifs
    · exact ⟨n, rfl, hchecksum (by omega) rfl rfl⟩
    · exact ⟨n, rfl, hchecksum (by omega) rfl rfl⟩

/-- R117: `RX_END` reads `RX_STATE` only, and leaves `RX_CNT` as it is. -/
theorem RxUnit.finish_withBuf {c : Config} {r : RxUnit} {n : Memory} (hn : r.buf.AgreeBelow (r.cnt c) n) :
    RxUnit.finish { r with buf := n } = { r.finish with buf := n } ∧
      r.finish.buf.AgreeBelow (r.finish.cnt c) n := by
  unfold RxUnit.finish
  cases hr : r.state with
  | recv => exact ⟨rfl, hn⟩
  | done | err => exact ⟨by simp [hr], hn⟩

/-! ### States that differ in their buffers only -/

/-- The state with other buffer contents. -/
def State.withBuffers (s : State) (m n : Memory) : State :=
  { s with tx := { s.tx with buf := m }, rx := { s.rx with buf := n } }

@[simp] theorem State.withBuffers_cfg (s : State) (m n : Memory) : (s.withBuffers m n).cfg = s.cfg := rfl
@[simp] theorem State.withBuffers_tx (s : State) (m n : Memory) :
    (s.withBuffers m n).tx = { s.tx with buf := m } := rfl
@[simp] theorem State.withBuffers_rx (s : State) (m n : Memory) :
    (s.withBuffers m n).rx = { s.rx with buf := n } := rfl

/-- Buffers that agree below `TX_LEN` and `RX_CNT` cannot be told apart. -/
theorem sameVisible_withBuffers {s : State} {m n : Memory} (hm : s.tx.buf.AgreeBelow s.tx.len.toNat m)
    (hn : s.rx.buf.AgreeBelow (s.rx.cnt s.cfg) n) : SameVisible s (s.withBuffers m n) :=
  ⟨rfl, rfl, rfl, rfl, rfl, rfl, hm, hn⟩

/-- The other direction: states that cannot be told apart differ in such buffers only. -/
theorem exists_withBuffers_of_sameVisible {s u : State} (h : SameVisible s u) :
    ∃ m n, u = s.withBuffers m n ∧ s.tx.buf.AgreeBelow s.tx.len.toNat m ∧
      s.rx.buf.AgreeBelow (s.rx.cnt s.cfg) n := by
  obtain ⟨hcfg, hcs, htx, hrx, hpending, hresponses, hm, hn⟩ := h
  refine ⟨u.tx.buf, u.rx.buf, ?_, hm, hn⟩
  rw [State.withBuffers, hcfg, hcs, htx, hrx, hpending, hresponses]

/-! ### One operation in two states that differ in stale bytes -/

/-- Whenever the first answer is a next state, the second is one that cannot be told apart from it. -/
def Simulates (a b : Result) : Prop := ∀ t, a = .next t → ∃ v, b = .next v ∧ SameVisible t v

/-- Two checks that agree, and each branch followed in both. -/
theorem simulates_ite {p q : Prop} [Decidable p] [Decidable q] {a a' b b' : Result} (hpq : p ↔ q)
    (ha : p → Simulates a b) (ha' : ¬ p → Simulates a' b') :
    Simulates (if p then a else a') (if q then b else b') := by
  by_cases hp : p
  · simpa only [if_pos hp, if_pos (hpq.1 hp)] using ha hp
  · simpa only [if_neg hp, if_neg (mt hpq.2 hp)] using ha' hp

/-- A fault asks nothing of the other state. -/
theorem simulates_fault {f : Fault} {b : Result} : Simulates (.fault f) b := fun _ ht => nomatch ht

theorem simulates_complete {d : Half} {s : State} {m n : Memory} (hm : s.tx.buf.AgreeBelow s.tx.len.toNat m)
    (hn : s.rx.buf.AgreeBelow (s.rx.cnt s.cfg) n) : Simulates (complete d s) (complete d (s.withBuffers m n)) := by
  intro t ht
  exact ⟨_, rfl, complete_eq_next.1 ht ▸ sameVisible_withBuffers (s := s.respond .ok d) hm hn⟩

theorem simulates_refuse {st : Status} {s : State} {m n : Memory} (hm : s.tx.buf.AgreeBelow s.tx.len.toNat m)
    (hn : s.rx.buf.AgreeBelow (s.rx.cnt s.cfg) n) : Simulates (refuse st s) (refuse st (s.withBuffers m n)) := by
  intro t ht
  exact ⟨_, rfl, refuse_eq_next.1 ht ▸ sameVisible_withBuffers (s := s.respond st 0) hm hn⟩

section
/-! `s` beside the same state with other bytes past `TX_LEN` and `RX_CNT`. -/
variable {s : State} {m n : Memory} (hm : s.tx.buf.AgreeBelow s.tx.len.toNat m)
  (hn : s.rx.buf.AgreeBelow (s.rx.cnt s.cfg) n)
include hm hn

/-- The check of R103 reads `TX_STATE` only. -/
theorem simulates_whileLoading {a b : Result} (hab : Simulates a b) :
    Simulates (whileLoading s a) (whileLoading (s.withBuffers m n) b) := by
  have hstate : (s.withBuffers m n).tx.state = s.tx.state := rfl
  cases hs : s.tx.state with
  | load => rwa [whileLoading_load hs, whileLoading_load (hstate.trans hs)]
  | emit =>
    rw [whileLoading_emit hs, whileLoading_emit (hstate.trans hs)]
    exact simulates_refuse hm hn

/-- R97: the argument is checked against the parameters only. -/
theorem execTxSetArg_simulates (x : Half) : Simulates (execTxSetArg x s) (execTxSetArg x (s.withBuffers m n)) :=
  simulates_whileLoading hm hn <|
    simulates_ite Iff.rfl (fun _ => simulates_complete hm hn) fun _ => simulates_refuse hm hn

/-- R98: both buffers take the byte at `TX_LEN`, which is the one index more that can be observed. -/
theorem execTxPush_simulates (b : Byte) : Simulates (execTxPush b s) (execTxPush b (s.withBuffers m n)) := by
  have hlen : (s.tx.len + 1).toNat ≤ s.tx.len.toNat + 1 := BitVec.toNat_add .. ▸ Nat.mod_le ..
  have hm' : (s.tx.buf.write s.tx.len b).AgreeBelow (s.tx.len + 1).toNat (m.write s.tx.len b) :=
    fun i hi => hm.write b i (lt_of_lt_of_le hi hlen)
  exact simulates_whileLoading hm hn <|
    simulates_ite Iff.rfl (fun _ => simulates_refuse hm hn) fun _ => simulates_complete hm' hn

/-- R100: a content byte delivered is the same in both. -/
theorem popContent_simulates (hpos : s.tx.pos.toNat < s.cfg.contentLen s.tx.len.toNat) :
    Simulates (popContent s) (popContent (s.withBuffers m n)) := by
  have hbyte : txByte (s.withBuffers m n).cfg (s.withBuffers m n).tx (s.withBuffers m n).tx.pos.toNat =
      txByte s.cfg s.tx s.tx.pos.toNat := txByte_withBuf hm hpos
  rw [popContent, popContent, hbyte]
  cases txByte s.cfg s.tx s.tx.pos.toNat with
  | some b => exact simulates_complete hm hn
  | none => exact simulates_fault

/-- R100: no branch writes a buffer. -/
theorem execTxPop_simulates : Simulates (execTxPop s) (execTxPop (s.withBuffers m n)) := by
  have hstate : (s.withBuffers m n).tx.state = s.tx.state := rfl
  rw [execTxPop, execTxPop, hstate]
  cases s.tx.state with
  | load => exact simulates_refuse hm hn
  | emit =>
    refine simulates_ite Iff.rfl (popContent_simulates hm hn) fun _ => simulates_ite Iff.rfl (fun _ => ?_) fun _ => ?_
    · exact simulates_complete hm hn
    · exact simulates_complete hm hn

/-- R116, R128: the phase depends on registers only. -/
theorem execRxPush_simulates (b : Byte) : Simulates (execRxPush b s) (execRxPush b (s.withBuffers m n)) := by
  have hstate : (s.withBuffers m n).rx.state = s.rx.state := rfl
  have hphase : rxPhase (s.withBuffers m n).cfg (s.withBuffers m n).rx.len (s.withBuffers m n).rx.pos.toNat =
      rxPhase s.cfg s.rx.len s.rx.pos.toNat := rfl
  rw [execRxPush, execRxPush, hstate, hphase]
  cases s.rx.state with
  | recv =>
    cases hph : rxPhase s.cfg s.rx.len s.rx.pos.toNat with
    | some ph =>
      obtain ⟨n', hpush, hn'⟩ := RxUnit.push_withBuf hph hn b
      dsimp only [State.withBuffers_rx, State.withBuffers_cfg]
      rw [hpush]
      exact simulates_complete hm hn'
    | none => exact simulates_fault
  | done | err => exact simulates_refuse hm hn

/-- R124: an index that is accepted is below `RX_CNT`. -/
theorem execRxRdBuf_simulates (j : Byte) : Simulates (execRxRdBuf j s) (execRxRdBuf j (s.withBuffers m n)) := by
  refine simulates_ite Iff.rfl (fun _ => simulates_refuse hm hn) fun hj => ?_
  rw [State.withBuffers_rx, hn.read (Nat.not_le.1 hj)]
  cases s.rx.buf.read j with
  | some b => exact simulates_complete hm hn
  | none => exact simulates_fault

/-- R117. -/
theorem execRxEnd_simulates : Simulates (execRxEnd s) (execRxEnd (s.withBuffers m n)) := by
  obtain ⟨hfinish, hn'⟩ := RxUnit.finish_withBuf hn
  rw [execRxEnd, execRxEnd, State.withBuffers_rx, hfinish]
  exact simulates_complete hm hn'

/-- No operation tells stale bytes apart. -/
theorem exec_simulates (i : Instr) : Simulates (exec i s) (exec i (s.withBuffers m n)) := by
  cases i with
  | txClr => exact simulates_complete Memory.agreeBelow_zero hn
  | txSetSrc | txSetDst | txSetCmd | txStart => exact simulates_whileLoading hm hn (simulates_complete hm hn)
  | txSetArg x => exact execTxSetArg_simulates hm hn x
  | txPush b => exact execTxPush_simulates hm hn b
  | txPop => exact execTxPop_simulates hm hn
  | rxClr => exact simulates_complete hm (RxUnit.agreeBelow_header (Nat.zero_le _))
  | rxPush b => exact execRxPush_simulates hm hn b
  | rxEnd => exact execRxEnd_simulates hm hn
  | rxRdBuf j => exact execRxRdBuf_simulates hm hn j
  | csClr | csAdd | csGet | txStat | txGetLen | rxStat | rxGetSrc | rxGetDst | rxGetCmd | rxGetArg | rxGetLen
  | rxGetCk | rxGetCalc | addrCls | cfgGet => exact simulates_complete hm hn

/-- No step tells stale bytes apart. -/
theorem step_simulates : Simulates (step s) (step (s.withBuffers m n)) := by
  cases hp : s.pending with
  | nil =>
    rw [step_of_pending_nil hp, step_of_pending_nil (s := s.withBuffers m n) hp]
    rintro t ⟨⟩
    exact ⟨_, rfl, sameVisible_withBuffers hm hn⟩
  | cons e rest =>
    cases e with
    | reset =>
      rw [step_of_reset hp, step_of_reset (s := s.withBuffers m n) hp]
      rintro t ⟨⟩
      exact ⟨_, rfl, sameVisible_withBuffers (s := State.applyReset { s with pending := rest })
        Memory.agreeBelow_zero (RxUnit.agreeBelow_header (Nat.zero_le _))⟩
    | command w =>
      cases hd : decode w with
      | ok i =>
        rw [step_of_decode_ok hp hd, step_of_decode_ok (s := s.withBuffers m n) hp hd]
        exact exec_simulates (s := { s with pending := rest }) hm hn i
      | error e =>
        rw [step_of_decode_error hp hd, step_of_decode_error (s := s.withBuffers m n) hp hd]
        exact simulates_refuse hm hn

end

/-! ### The obligations -/

/-- Settles O52: the three operations that can fault do so as their `_eq_fault_iff` lemmas say, and every other one
completes. -/
theorem execFaultsExactlyWhereListed : Obligations.ExecFaultsExactlyWhereListed := by
  intro i s
  by_cases hpop : i = .txPop
  · subst hpop
    refine ⟨fun f => ?_, execTxPop_ne_refused s⟩
    exact execTxPop_eq_fault_iff.trans (by simp [Config.contentLen_eq, bufIndex])
  by_cases hpush : ∃ b, i = .rxPush b
  · obtain ⟨b, rfl⟩ := hpush
    refine ⟨fun f => ?_, execRxPush_ne_refused b s⟩
    exact execRxPush_eq_fault_iff.trans (by simp [Config.contentLen_eq])
  by_cases hrd : ∃ j, i = .rxRdBuf j
  · obtain ⟨j, rfl⟩ := hrd
    refine ⟨fun f => ?_, execRxRdBuf_ne_refused j s⟩
    exact execRxRdBuf_eq_fault_iff.trans (by simp)
  obtain ⟨t, ht⟩ := exec_completes_of_not_partial hpop (not_exists.1 hpush) (not_exists.1 hrd) s
  refine ⟨fun f => ⟨fun hf => by simp [ht] at hf, ?_⟩, by simp [ht]⟩
  rintro (⟨rfl, -⟩ | ⟨hi, -⟩ | ⟨j, hi, -⟩)
  · exact absurd rfl hpop
  · exact absurd hi hpush
  · exact absurd ⟨j, hi⟩ hrd

/-- Settles O54: the second state is the first with other buffers, which agree where `step_simulates` asks. -/
theorem staleBufferBytesAreUnobservable : Obligations.StaleBufferBytesAreUnobservable := by
  intro s u t h ht
  obtain ⟨m, n, rfl, hm, hn⟩ := exists_withBuffers_of_sameVisible h
  exact step_simulates hm hn t ht

/-- Settles O7. -/
theorem stepWithNothingPendingChangesNothing : Obligations.StepWithNothingPendingChangesNothing :=
  fun _ => step_of_pending_nil

end Sys2Proof.Machine
end

section
/-!
PROOFS. 30_encoding.md: the command word (R62 to R65, R68, R69) and the response word (R66, R67). The decoder inverts
the encoder in both directions (`decode_eq_ok_iff`), and on the opcode of an operation it accepts exactly the operand
fields that the operation's format admits (`decodeFields_accepts_iff`). The rows of the opcode table are the rows of
the operations, one for each opcode, so the table, the decoder and the three kinds of illegal word agree.
-/

open Sys2Proof Sys2Proof.Machine Sys2Proof.Certificates

namespace Sys2Proof

/-! ### The operand formats -/

/-- The format of each operation (R65). -/
def Instr.format : Instr → Format
  | .csAdd _ | .txSetSrc _ | .txSetDst _ | .txSetCmd _ | .txPush _ | .rxPush _ | .rxRdBuf _ | .addrCls _ => .b
  | .txSetArg _ => .h
  | .csClr | .csGet | .txClr | .txStart | .txPop | .txStat | .txGetLen | .rxClr | .rxEnd | .rxStat | .rxGetSrc
  | .rxGetDst | .rxGetCmd | .rxGetArg | .rxGetLen | .rxGetCk | .rxGetCalc | .cfgGet => .z

theorem Instr.wellFormed_eq_admits (i : Instr) : i.wellFormed = i.format.admits i.operand := by
  cases i <;> rfl

theorem Instr.format_admits_operand (i : Instr) : i.format.admits i.operand = true :=
  i.wellFormed_eq_admits ▸ i.wellFormed_all

theorem Format.admits_z_iff {x : Half} : Format.z.admits x = true ↔ x = 0 := by
  rw [Format.admits, show ~~~ Format.operandMask .z = BitVec.allOnes 16 from rfl, BitVec.and_allOnes, beq_iff_eq]

/-- An operand field with high byte 0 is its low byte, extended (R63, format B). -/
theorem zext_lowByte_of_highByte {x : Half} (h : highByte x = 0) : zext (lowByte x) = x := by
  apply BitVec.eq_of_toNat_eq
  have hx := highByte_toNat x
  rw [h, show (0 : Byte).toNat = 0 from rfl] at hx
  rw [zext_toNat, lowByte_toNat]
  omega

theorem Format.admits_b_iff {x : Half} : Format.b.admits x = true ↔ highByte x = 0 := by
  have hmask : x &&& ~~~ Format.operandMask .b = joinBytes (highByte x) 0 := by
    conv_lhs => rw [← joinBytes_high_low x]
    show (highByte x ++ lowByte x : Half) &&& (BitVec.allOnes 8 ++ 0#8 : Half) = _
    rw [BitVec.and_append, BitVec.and_allOnes, BitVec.and_zero]
    rfl
  rw [Format.admits, hmask, beq_iff_eq]
  constructor
  · intro h
    exact (highByte_joinBytes _ _).symm.trans ((congrArg highByte h).trans highByte_zero)
  · intro h
    rw [h]
    rfl

@[simp] theorem Format.admits_h (x : Half) : Format.h.admits x = true := by
  simp [Format.admits, Format.operandMask]

/-! ### Decoding one format -/

theorem decodeZ_eq_ok_iff {i j : Instr} {x : Half} : decodeZ i x = .ok j ↔ x = 0 ∧ i = j := by
  rw [decodeZ]
  split_ifs with h <;> simp only [h, Except.ok.injEq, true_and, false_and]

theorem decodeB_eq_ok_iff {f : Byte → Instr} {j : Instr} {x : Half} :
    decodeB f x = .ok j ↔ highByte x = 0 ∧ f (lowByte x) = j := by
  rw [decodeB, highByte, lowByte]
  split_ifs with h <;> simp only [h, Except.ok.injEq, true_and, false_and]

theorem decodeZ_accepts_iff {i : Instr} {x : Half} : (∃ j, decodeZ i x = .ok j) ↔ Format.z.admits x = true := by
  simp [decodeZ_eq_ok_iff, Format.admits_z_iff]

theorem decodeB_accepts_iff {f : Byte → Instr} {x : Half} :
    (∃ j, decodeB f x = .ok j) ↔ Format.b.admits x = true := by
  simp [decodeB_eq_ok_iff, Format.admits_b_iff]

theorem decodeH_accepts_iff {f : Half → Instr} {x : Half} :
    (∃ j, decodeH f x = .ok j) ↔ Format.h.admits x = true := by
  simp [decodeH]

theorem decodeB_zext (f : Byte → Instr) (b : Byte) : decodeB f (zext b) = .ok (f b) :=
  decodeB_eq_ok_iff.2 ⟨highByte_zext b, by rw [lowByte_zext]⟩

/-- Format Z keeps the fields of the word: the operation has the opcode of its arm, and no operand (R63). -/
theorem decodeZ_fields {i j : Instr} {x : Half} (hi : i.operand = 0) (h : decodeZ i x = .ok j) :
    j.opcode = i.opcode ∧ j.operand = x := by
  obtain ⟨rfl, rfl⟩ := decodeZ_eq_ok_iff.1 h
  exact ⟨rfl, hi⟩

/-- Format B keeps the fields of the word: the byte operand is the whole operand field (R63). -/
theorem decodeB_fields {f : Byte → Instr} {op : Byte} {j : Instr} {x : Half} (hop : ∀ b, (f b).opcode = op)
    (hf : ∀ b, (f b).operand = zext b) (h : decodeB f x = .ok j) : j.opcode = op ∧ j.operand = x := by
  obtain ⟨hx, rfl⟩ := decodeB_eq_ok_iff.1 h
  exact ⟨hop _, (hf _).trans (zext_lowByte_of_highByte hx)⟩

/-! ### Decode and encode -/

@[simp] theorem opcodeField_encode (i : Instr) : opcodeField (encode i) = i.opcode := opcodeField_append _ _

@[simp] theorem operandField_encode (i : Instr) : operandField (encode i) = i.operand := operandField_append _ _

/-- What the decoder answers on an operation's own fields, format by format. -/
theorem decode_encode (i : Instr) : decode (encode i) = .ok i := by
  rw [encode, decode_append]
  cases i with
  | csAdd b | txSetSrc b | txSetDst b | txSetCmd b | txPush b | rxPush b | rxRdBuf b | addrCls b =>
    exact decodeB_zext _ b
  | txSetArg x => rfl
  | csClr | csGet | txClr | txStart | txPop | txStat | txGetLen | rxClr | rxEnd | rxStat | rxGetSrc | rxGetDst
  | rxGetCmd | rxGetArg | rxGetLen | rxGetCk | rxGetCalc | cfgGet => exact decodeZ_eq_ok_iff.2 ⟨rfl, rfl⟩

/-- The operation selected has the opcode and the operand field it was selected by: the arms of the decoder by
format. -/
theorem decodeFields_fields {op : Byte} {x : Half} {i : Instr} (h : decodeFields op x = .ok i) :
    i.opcode = op ∧ i.operand = x := by
  unfold decodeFields at h
  split at h
  case h_2 | h_5 | h_6 | h_7 | h_9 | h_15 | h_23 | h_26 =>
    -- format B
    exact decodeB_fields (fun _ => rfl) (fun _ => rfl) h
  case h_8 =>
    -- format H
    cases h
    exact ⟨rfl, rfl⟩
  case h_28 =>
    -- no row
    cases h
  -- format Z
  all_goals exact decodeZ_fields rfl h

/-- The words that select an operation: its encoding and no other (R63). -/
theorem decode_eq_ok_iff {w : CmdWord} {i : Instr} : decode w = .ok i ↔ encode i = w := by
  constructor
  · intro h
    obtain ⟨hop, hx⟩ := decodeFields_fields h
    rw [encode, hop, hx, append_fields]
  · rintro rfl
    exact decode_encode i

/-- On the opcode of an operation the decoder asks only whether the operand field suits the operation's format. -/
theorem decodeFields_accepts_iff (i : Instr) (x : Half) :
    (∃ j, decodeFields i.opcode x = .ok j) ↔ i.format.admits x = true := by
  cases i with
  | csAdd | txSetSrc | txSetDst | txSetCmd | txPush | rxPush | rxRdBuf | addrCls => exact decodeB_accepts_iff
  | txSetArg => exact decodeH_accepts_iff
  | csClr | csGet | txClr | txStart | txPop | txStat | txGetLen | rxClr | rxEnd | rxStat | rxGetSrc | rxGetDst
  | rxGetCmd | rxGetArg | rxGetLen | rxGetCk | rxGetCalc | cfgGet => exact decodeZ_accepts_iff

/-- A word is accepted when some operation has its opcode and a format that admits its operand field. -/
theorem decode_accepts_iff {w : CmdWord} :
    (∃ i, decode w = .ok i) ↔
      ∃ i : Instr, i.opcode = opcodeField w ∧ i.format.admits (operandField w) = true := by
  constructor
  · rintro ⟨i, h⟩
    obtain rfl := decode_eq_ok_iff.1 h
    exact ⟨i, by simp, by simpa using i.format_admits_operand⟩
  · rintro ⟨i, hop, hx⟩
    rw [decode, ← hop]
    exact (decodeFields_accepts_iff i _).2 hx

theorem decode_rejects_iff {w : CmdWord} : (∃ e, decode w = .error e) ↔ ¬ ∃ i, decode w = .ok i := by
  cases decode w <;> simp

/-! ### The rows of the opcode table -/

/-- The row of an operation (R65): its `match` word is its opcode with operand field 0. -/
def Instr.row (i : Instr) : OpcodeRow := ⟨i.mnemonic, i.format, i.opcode ++ 0#16⟩

/-- The opcode of a row: the upper byte of its `match` word. -/
def OpcodeRow.opcode (r : OpcodeRow) : Byte := opcodeField r.pattern

@[simp] theorem Instr.row_opcode (i : Instr) : i.row.opcode = i.opcode := opcodeField_append _ _

@[simp] theorem Instr.row_format (i : Instr) : i.row.format = i.format := rfl

/-- Every operation's row is listed: written out, the row no longer holds the operand, and the table decides. -/
theorem Instr.row_mem (i : Instr) : i.row ∈ opcodeTable := by
  cases i <;> simp only [Instr.row, Instr.mnemonic, Instr.format, Instr.opcode] <;> decide

/-- Each row's `match` word decodes to an operation of that row. -/
theorem decode_pattern_row : ∀ r ∈ opcodeTable, (decode r.pattern).toOption.map Instr.row = some r := by decide

/-- The table has the operations' rows and no other. -/
theorem mem_opcodeTable_iff {r : OpcodeRow} : r ∈ opcodeTable ↔ ∃ i : Instr, i.row = r := by
  constructor
  · intro h
    obtain ⟨i, -, hi⟩ := Option.map_eq_some_iff.1 (decode_pattern_row r h)
    exact ⟨i, hi⟩
  · rintro ⟨i, rfl⟩
    exact i.row_mem

/-- No two rows share an opcode (R65). -/
theorem opcodeTable_opcodes_nodup : (opcodeTable.map OpcodeRow.opcode).Nodup := by decide

theorem Instr.row_eq_of_opcode_eq {i j : Instr} (h : i.opcode = j.opcode) : i.row = j.row :=
  List.inj_on_of_nodup_map opcodeTable_opcodes_nodup i.row_mem j.row_mem (by simpa using h)

theorem Instr.format_eq_of_opcode_eq {i j : Instr} (h : i.opcode = j.opcode) : i.format = j.format :=
  congrArg OpcodeRow.format (row_eq_of_opcode_eq h)

/-- `cmd AND mask = match`, field by field (R63). -/
theorem Instr.row_accepts_iff {i : Instr} {w : CmdWord} :
    i.row.accepts w = true ↔ i.opcode = opcodeField w ∧ i.format.admits (operandField w) = true := by
  have hmask : w &&& i.row.mask = opcodeField w ++ (operandField w &&& ~~~ i.format.operandMask) := by
    conv_lhs => rw [← append_fields w]
    show (opcodeField w ++ operandField w) &&& (BitVec.allOnes 8 ++ ~~~ i.format.operandMask) = _
    rw [BitVec.and_append, BitVec.and_allOnes]
  rw [OpcodeRow.accepts, hmask, beq_iff_eq, Format.admits, beq_iff_eq]
  constructor
  · intro h
    have hop := congrArg opcodeField h
    have hx := congrArg operandField h
    simp only [Instr.row, opcodeField_append, operandField_append] at hop hx
    exact ⟨hop.symm, hx⟩
  · rintro ⟨hop, hx⟩
    rw [hx, ← hop]
    rfl

theorem OpcodeRow.opcode_eq_of_accepts {r : OpcodeRow} {w : CmdWord} (hr : r ∈ opcodeTable)
    (h : r.accepts w = true) : r.opcode = opcodeField w := by
  obtain ⟨i, rfl⟩ := mem_opcodeTable_iff.1 hr
  exact i.row_opcode.trans (Instr.row_accepts_iff.1 h).1

/-! ### The assigned opcodes -/

/-- The opcodes of the table that have a given format (R65). -/
def opcodesOf (f : Format) : List Byte := (opcodeTable.filter (·.format = f)).map OpcodeRow.opcode

theorem mem_opcodesOf_iff {f : Format} {op : Byte} :
    op ∈ opcodesOf f ↔ ∃ i : Instr, i.opcode = op ∧ i.format = f := by
  simp only [opcodesOf, List.mem_map, List.mem_filter, decide_eq_true_eq, mem_opcodeTable_iff, and_assoc,
    exists_exists_eq_and, Instr.row_format, Instr.row_opcode]
  exact exists_congr fun _ => and_comm

theorem mem_opcodes_iff {op : Byte} : op ∈ opcodeTable.map OpcodeRow.opcode ↔ ∃ i : Instr, i.opcode = op := by
  simp only [List.mem_map, mem_opcodeTable_iff, exists_exists_eq_and, Instr.row_opcode]

/-- R69: an illegal word has an opcode of no row, or one of format Z with an operand, or one of format B with a high
operand byte. An opcode has one format, so an operation of that opcode settles which of the three it is. -/
theorem decode_rejects_iff_kinds {w : CmdWord} :
    (∃ e, decode w = .error e) ↔
      opcodeField w ∉ opcodeTable.map OpcodeRow.opcode ∨
      (opcodeField w ∈ opcodesOf .z ∧ operandField w ≠ 0) ∨
      (opcodeField w ∈ opcodesOf .b ∧ highByte (operandField w) ≠ 0) := by
  rw [decode_rejects_iff, decode_accepts_iff]
  by_cases hop : ∃ i : Instr, i.opcode = opcodeField w
  · obtain ⟨i, hi⟩ := hop
    have hassigned : opcodeField w ∈ opcodeTable.map OpcodeRow.opcode := mem_opcodes_iff.2 ⟨i, hi⟩
    have hadmits : (∃ j : Instr, j.opcode = opcodeField w ∧ j.format.admits (operandField w) = true) ↔
        i.format.admits (operandField w) = true :=
      ⟨fun ⟨j, hj, hx⟩ => Instr.format_eq_of_opcode_eq (hj.trans hi.symm) ▸ hx, fun hx => ⟨i, hi, hx⟩⟩
    have hformat (f : Format) : opcodeField w ∈ opcodesOf f ↔ i.format = f :=
      mem_opcodesOf_iff.trans
        ⟨fun ⟨j, hj, hf⟩ => Instr.format_eq_of_opcode_eq (hi.trans hj.symm) ▸ hf, fun hf => ⟨i, hi, hf⟩⟩
    rw [hadmits, hformat, hformat]
    cases i.format with
    | z => simp [hassigned, Format.admits_z_iff]
    | b => simp [hassigned, Format.admits_b_iff]
    | h => simp [hassigned]
  · have hunassigned : opcodeField w ∉ opcodeTable.map OpcodeRow.opcode := fun h => hop (mem_opcodes_iff.1 h)
    exact iff_of_true (fun ⟨i, hi, _⟩ => hop ⟨i, hi⟩) (.inl hunassigned)

end Sys2Proof

namespace Sys2Proof.Machine

/-! ### The response word -/

theorem Status.code_toNat (st : Status) : st.code.toNat = statusNumber st := by
  cases st <;> rfl

theorem rspWord_toNat (st : Status) (d : Half) : (rspWord st d).toNat = 65536 * statusNumber st + d.toNat := by
  rw [rspWord, BitVec.toNat_append, ← Nat.shiftLeft_add_eq_or_of_lt d.isLt, Nat.shiftLeft_eq, Status.code_toNat]
  ring

/-! ### The obligations -/

/-- Settles O1: by `decode_encode`; every operation is well-formed. -/
theorem everyOperationDecodesFromItsWord : Obligations.EveryOperationDecodesFromItsWord :=
  fun i _ => decode_encode i

/-- Settles O2. -/
theorem everyLegalWordIsTheEncodingOfItsOperation : Obligations.EveryLegalWordIsTheEncodingOfItsOperation :=
  fun _ _ => decode_eq_ok_iff.1

/-- Settles O3: the rows of the table are the rows of the operations, and a row accepts what the decoder accepts with
its opcode. -/
theorem decoderFollowsTheOpcodeTable : Obligations.DecoderFollowsTheOpcodeTable := by
  refine ⟨fun w => ?_, fun w i r hd hr ha => ?_, ?_, rfl⟩
  · rw [decode_accepts_iff]
    constructor
    · rintro ⟨i, h⟩
      exact ⟨i.row, i.row_mem, Instr.row_accepts_iff.2 h⟩
    · rintro ⟨r, hr, ha⟩
      obtain ⟨i, rfl⟩ := mem_opcodeTable_iff.1 hr
      exact ⟨i, Instr.row_accepts_iff.1 ha⟩
  · obtain ⟨j, rfl⟩ := mem_opcodeTable_iff.1 hr
    obtain rfl := decode_eq_ok_iff.1 hd
    have hop : j.opcode = i.opcode := by simpa using (Instr.row_accepts_iff.1 ha).1
    exact congrArg OpcodeRow.mnemonic (Instr.row_eq_of_opcode_eq hop)
  · refine (List.pairwise_map.1 opcodeTable_opcodes_nodup).imp_of_mem ?_
    rintro r q hr hq hne w ⟨har, haq⟩
    exact hne ((OpcodeRow.opcode_eq_of_accepts hr har).trans (OpcodeRow.opcode_eq_of_accepts hq haq).symm)

/-- Settles O5: the lists of R69 are the opcodes of the table by format; the refusal is `step_of_decode_error`. -/
theorem illegalWordsAreRefusedAndChangeNothing : Obligations.IllegalWordsAreRefusedAndChangeNothing := by
  refine ⟨fun _ => decode_rejects_iff_kinds, ?_, fun w hw => ?_⟩
  · rintro w s rest ⟨e, he⟩
    exact step_of_decode_error (s := { s with pending := .command w :: rest }) rfl he
  · fin_cases hw <;> exact ⟨_, rfl⟩

/-- Settles O4: each word is the encoding of its operation. -/
theorem sampleWordsDecode : Obligations.SampleWordsDecode :=
  ⟨decode_encode .csClr, decode_encode (.csAdd 0x3D), decode_encode (.txSetArg 0x1234), decode_encode (.txPush 0xAA),
    decode_encode .txPop, decode_encode (.rxPush 0xFE), decode_encode .rxGetCalc, decode_encode (.addrCls 0x3E),
    decode_encode .cfgGet⟩

/-- Settles O8. -/
theorem responseWordLayout : Obligations.ResponseWordLayout :=
  fun st d => ⟨rspWord_toNat st d, extract_append_low st.code d⟩

end Sys2Proof.Machine
end

section
/-!
PROOFS. 40_checksum.md: `Checksum16` and its incremental form (R80, R82), the operations of the CS unit (R83 to R85,
R87), and what the checksum of a frame detects (R86). A checksum tells the sum of its bytes modulo 65536 and nothing
else (`checksum16_eq_iff`), so the change of any one byte is detected (`checksum16_set_ne`). A complete sequence whose
length byte is in order decodes by its checksum alone (`decodeFrame_content_append`).
-/

open Sys2Proof Sys2Proof.Machine Sys2Proof.Certificates

namespace Sys2Proof.Machine

/-! ### `Checksum16` -/

/-- R82: `Checksum16` is the complement of the running sum at its final value. -/
theorem checksum16_eq_accChecksum (d : List Byte) : checksum16 d = accChecksum (BitVec.ofNat 16 (byteSum d % 65536)) :=
  rfl

/-- R80, second form. -/
theorem checksum16_toNat (d : List Byte) : (checksum16 d).toNat = 65535 - byteSum d % 65536 := by
  rw [checksum16_eq_accChecksum, accChecksum_toNat, BitVec.toNat_ofNat, Nat.mod_mod]

/-- R80, first form. -/
theorem checksum16_toNat_xor (d : List Byte) : (checksum16 d).toNat = (byteSum d % 65536) ^^^ 0xFFFF := by
  rw [checksum16, BitVec.toNat_xor, BitVec.toNat_ofNat, Nat.mod_mod]
  rfl

/-- R82, R86 item 4: two sequences have one checksum exactly when they have one sum modulo 65536. -/
theorem checksum16_eq_iff {d e : List Byte} : checksum16 d = checksum16 e ↔ byteSum d % 65536 = byteSum e % 65536 := by
  rw [← BitVec.toNat_inj, checksum16_toNat, checksum16_toNat]
  omega

@[simp] theorem byteSum_cons (b : Byte) (d : List Byte) : byteSum (b :: d) = b.toNat + byteSum d := by simp [byteSum]

theorem byteSum_perm {d e : List Byte} (h : d.Perm e) : byteSum d = byteSum e := (h.map BitVec.toNat).sum_eq

/-- R82: adding the bytes of `d` one by one adds their sum. -/
theorem foldl_accAdd_toNat (d : List Byte) (a : Half) : (d.foldl accAdd a).toNat = (a.toNat + byteSum d) % 65536 := by
  induction d generalizing a with
  | nil => exact (Nat.mod_eq_of_lt a.isLt).symm
  | cons b d ih => rw [List.foldl_cons, ih, accAdd_toNat, Nat.mod_add_mod, byteSum_cons, Nat.add_assoc]

theorem foldl_accAdd_zero_toNat (d : List Byte) : (d.foldl accAdd 0).toNat = byteSum d % 65536 := by
  rw [foldl_accAdd_toNat, show (0 : Half).toNat = 0 from rfl, Nat.zero_add]

/-- R82: the incremental form ends at `Checksum16`. -/
theorem accChecksum_foldl (d : List Byte) : accChecksum (d.foldl accAdd 0) = checksum16 d := by
  apply BitVec.eq_of_toNat_eq
  rw [accChecksum_toNat, foldl_accAdd_zero_toNat, checksum16_toNat]

/-- One byte replaced: the sum changes by the difference of the two bytes. -/
theorem byteSum_set {d : List Byte} {j : Nat} {b : Byte} (hb : d[j]? = some b) (b' : Byte) :
    byteSum (d.set j b') + b.toNat = byteSum d + b'.toNat := by
  induction d generalizing j with
  | nil => simp at hb
  | cons a d ih =>
    cases j with
    | zero =>
      obtain rfl : a = b := by simpa using hb
      rw [List.set_cons_zero, byteSum_cons, byteSum_cons]
      omega
    | succ j =>
      have htail := ih (j := j) (by simpa using hb)
      rw [List.set_cons_succ, byteSum_cons, byteSum_cons]
      omega

/-- R86 item 1: two different bytes differ by less than 65536, so replacing one byte changes the checksum. -/
theorem checksum16_set_ne {d : List Byte} {j : Nat} {b b' : Byte} (hb : d[j]? = some b) (hne : b' ≠ b) :
    checksum16 (d.set j b') ≠ checksum16 d := by
  have hsum := byteSum_set hb b'
  have hne := BitVec.toNat_ne_iff_ne.2 hne
  have := b.isLt
  have := b'.isLt
  rw [Ne, checksum16_eq_iff]
  omega

/-! ### A command word by the format of its operation -/

/-- The word of an operation runs it. -/
theorem step_encode (i : Instr) (s : State) (rest : List PortEvent) :
    step { s with pending := .command (encode i) :: rest } = exec i { s with pending := rest } :=
  step_of_decode_ok (s := { s with pending := .command (encode i) :: rest }) rfl (decode_encode i)

/-- R69: an operand field that the operation's format does not admit is refused as illegal. -/
theorem step_operand_not_admitted {i : Instr} {x : Half} (hx : ¬ i.format.admits x = true) (s : State)
    (rest : List PortEvent) :
    step { s with pending := .command (i.opcode ++ x) :: rest } =
      .next { s with pending := rest, responses := s.responses ++ [rspWord .illegalOp 0] } := by
  have hrejects : ∃ e, decode (i.opcode ++ x) = .error e := by
    rw [decode_rejects_iff, decode_append, decodeFields_accepts_iff]
    exact hx
  obtain ⟨e, he⟩ := hrejects
  exact step_of_decode_error (s := { s with pending := .command (i.opcode ++ x) :: rest }) rfl he

/-- R63: every operation of format Z is issued by its opcode with operand field 0 only. -/
theorem issuesZ_of_format {i : Instr} (hz : i.format = .z) : IssuesZ i.opcode i := by
  intro s rest x
  have hoperand : i.operand = 0 := Format.admits_z_iff.1 (hz ▸ i.format_admits_operand)
  split_ifs with hx
  · rw [hx, ← hoperand]
    exact step_encode i s rest
  · exact step_operand_not_admitted (by rwa [hz, Format.admits_z_iff]) s rest

/-- R63: a family of operations of format B is issued by its opcode with high operand byte 0 only. -/
theorem issuesB_of_format {op : Byte} {f : Byte → Instr} (hop : ∀ b, (f b).opcode = op)
    (hoperand : ∀ b, (f b).operand = zext b) (hb : ∀ b, (f b).format = .b) : IssuesB op f := by
  intro s rest hi lo
  have hhigh : highByte (joinBytes hi lo) = hi := highByte_joinBytes hi lo
  split_ifs with hhi
  · have hword : joinBytes hi lo = (f lo).operand := by
      rw [hoperand, ← zext_lowByte_of_highByte (hhigh.trans hhi), lowByte_joinBytes]
    have hrun := step_encode (f lo) s rest
    rwa [encode, hop, ← hword] at hrun
  · have hx : ¬ (f lo).format.admits (joinBytes hi lo) = true := by rwa [hb, Format.admits_b_iff, hhigh]
    have hrun := step_operand_not_admitted hx s rest
    rwa [hop] at hrun

/-! ### The CS unit between `CS_CLR` and `CS_GET` -/

/-- R84, R13: an operation that is not `CS_CLR` leaves in `CS_ACC` the sum with the bytes it gives to `CS_ADD`. -/
theorem exec_csAcc {i : Instr} {s t : State} (hi : i ≠ .csClr) (h : exec i s = .next t) :
    t.csAcc = (addedBytes [i]).foldl accAdd s.csAcc := by
  cases i with
  | csAdd b =>
    obtain rfl := complete_eq_next.1 h
    rfl
  | csClr => exact absurd rfl hi
  | _ =>
    have hsame : t.csAcc = s.csAcc := by_contra fun hne => by simpa using (exec_changes h).cs.written_by hne
    exact hsame

theorem addedBytes_cons (i : Instr) (ops : List Instr) : addedBytes (i :: ops) = addedBytes [i] ++ addedBytes ops :=
  List.filterMap_append (l := [i]) (l' := ops)

/-- An operation that the host has pending is run: it completes under the invariant, and keeps it. -/
theorem step_command_completes {s : State} (h : Inv s) {i : Instr} {rest : List PortEvent}
    (hp : s.pending = .command (encode i) :: rest) :
    ∃ t, step s = .next t ∧ exec i { s with pending := rest } = .next t ∧ Inv t ∧ t.pending = rest := by
  obtain ⟨t, ht⟩ := step_completes h
  have hexec : exec i { s with pending := rest } = .next t := step_of_decode_ok hp (decode_encode i) ▸ ht
  exact ⟨t, ht, hexec, step_keeps_inv h ht, (exec_changes hexec).pending⟩

/-- R87: operations other than `CS_CLR`, run one after the other, leave in `CS_ACC` the sum with the bytes they give
to `CS_ADD`. -/
theorem run_commands_csAcc {ops : List Instr} (hops : .csClr ∉ ops) (k : Nat) {s : State} (h : Inv s)
    {rest : List PortEvent} (hp : s.pending = commands ops ++ rest) :
    ∃ t, Sys2Proof.core.run (ops.length + k) s = Sys2Proof.core.run k t ∧ Inv t ∧ t.pending = rest ∧
      t.csAcc = (addedBytes ops).foldl accAdd s.csAcc := by
  induction ops generalizing s with
  | nil => exact ⟨s, by rw [List.length_nil, Nat.zero_add], h, hp, rfl⟩
  | cons i ops ih =>
    obtain ⟨hi, hops⟩ := not_or.1 (mt List.mem_cons.2 hops)
    obtain ⟨u, hstep, hexec, hu, hpu⟩ := step_command_completes h (rest := commands ops ++ rest) hp
    obtain ⟨t, hrun, ht, hpt, hacc⟩ := ih hops hu hpu
    refine ⟨t, ?_, ht, hpt, ?_⟩
    · rw [List.length_cons, Nat.add_right_comm, run_succ hstep, hrun]
    · rw [hacc, exec_csAcc (Ne.symm hi) hexec, addedBytes_cons i ops, List.foldl_append]

/-! ### Decoding a complete sequence -/

/-- The Packet that the bytes of a content hold, field by field (R110). -/
def contentPacket (c : Config) (d : List Byte) : Packet where
  source := byteAt d 0
  destination := byteAt d 1
  command := byteAt d 2
  argument := match c.argBytes with
    | .one => zext (byteAt d 3)
    | .two => joinBytes (byteAt d 4) (byteAt d 3)
  payload := d.drop c.headerLen

theorem byteAt_append_left {d e : List Byte} {i : Nat} (h : i < d.length) : byteAt (d ++ e) i = byteAt d i :=
  List.getD_append d e 0 i h

theorem byteAt_append_right {d e : List Byte} {i : Nat} (h : d.length ≤ i) :
    byteAt (d ++ e) i = byteAt e (i - d.length) :=
  List.getD_append_right d e 0 i h

theorem byteAt_set_ne {d : List Byte} {i j : Nat} (b : Byte) (h : j ≠ i) : byteAt (d.set j b) i = byteAt d i := by
  simp [byteAt, List.getElem?_set_ne h]

/-- R110: of a content with the length its length byte declares, two bytes and whatever follows (R113), the structure
is in order, and the two bytes decide. -/
theorem decodeFrame_content_append {c : Config} {d : List Byte} {n : Byte} (hlen : d.length = c.contentLen n.toNat)
    (hn : byteAt d (c.headerLen - 1) = n) (hmax : n ≤ c.payloadMax) (lo hi : Byte) (tail : List Byte) :
    decodeFrame c (d ++ lo :: hi :: tail) =
      if checksum16 d = joinBytes hi lo then .ok (contentPacket c d) else .error .checksum := by
  have hH := c.headerLen_le
  have hC := c.contentLen_eq n.toNat
  have hF := c.frameLen_eq n.toNat
  have hlength : (d ++ lo :: hi :: tail).length = d.length + (tail.length + 2) := by simp
  have hheader {i : Nat} (hlt : i < c.headerLen) (lo hi : Byte) (tail : List Byte) :
      byteAt (d ++ lo :: hi :: tail) i = byteAt d i := byteAt_append_left (by omega)
  have hlo : byteAt (d ++ lo :: hi :: tail) (c.contentLen n.toNat) = lo := by
    rw [← hlen, byteAt_append_right le_rfl, Nat.sub_self]
    rfl
  have hhi : byteAt (d ++ lo :: hi :: tail) (c.contentLen n.toNat + 1) = hi := by
    rw [← hlen, byteAt_append_right (Nat.le_add_right ..), Nat.add_sub_cancel_left]
    rfl
  have htake : (d ++ lo :: hi :: tail).take (c.contentLen n.toNat) = d := List.take_left' hlen
  unfold decodeFrame
  simp (disch := omega) only [hheader, hn, hlo, hhi, htake]
  rw [if_neg (by omega), if_neg (BitVec.not_lt.2 hmax), if_neg (by omega), ite_not]
  rfl

theorem contentBytes_length (c : Config) (p : Packet) : (contentBytes c p).length = c.contentLen p.payload.length := by
  cases ha : c.argBytes with
  | one | two =>
    simp only [contentBytes, argumentBytes, Config.contentLen, Config.headerLen, ArgBytes.toNat, ha,
      List.length_append, List.length_cons, List.length_nil]

theorem packet_wellFormed_iff {c : Config} {p : Packet} :
    p.wellFormed c = true ↔ c.argBytes.fits p.argument = true ∧ p.payload.length ≤ c.payloadMax.toNat := by
  simp [Packet.wellFormed]

/-- R11: the length of a payload fits the length byte. -/
theorem lengthByte_toNat {c : Config} {p : Packet} (h : p.wellFormed c = true) :
    (BitVec.ofNat 8 p.payload.length : Byte).toNat = p.payload.length := by
  have := (packet_wellFormed_iff.1 h).2
  have := c.payloadMax.isLt
  rw [BitVec.toNat_ofNat]
  omega

theorem lengthByte_le_payloadMax {c : Config} {p : Packet} (h : p.wellFormed c = true) :
    BitVec.ofNat 8 p.payload.length ≤ c.payloadMax := by
  rw [BitVec.le_def, lengthByte_toNat h]
  exact (packet_wellFormed_iff.1 h).2

/-- The content has the length its length byte declares. -/
theorem contentBytes_length_of_wellFormed {c : Config} {p : Packet} (h : p.wellFormed c = true) :
    (contentBytes c p).length = c.contentLen (BitVec.ofNat 8 p.payload.length : Byte).toNat := by
  rw [lengthByte_toNat h]
  exact contentBytes_length c p

theorem byteAt_contentBytes_length (c : Config) (p : Packet) :
    byteAt (contentBytes c p) (c.headerLen - 1) = BitVec.ofNat 8 p.payload.length := by
  cases ha : c.argBytes with
  | one | two => simp [contentBytes, argumentBytes, byteAt, Config.headerLen, ArgBytes.toNat, ha]

/-- R91: the content of a well-formed Packet holds that Packet. -/
theorem contentPacket_contentBytes {c : Config} {p : Packet} (h : p.wellFormed c = true) :
    contentPacket c (contentBytes c p) = p := by
  cases ha : c.argBytes with
  | one =>
    have hhigh : highByte p.argument = 0 := highByte_of_fits (packet_wellFormed_iff.1 h).1 ha
    simp [contentPacket, contentBytes, argumentBytes, byteAt, Config.headerLen, ArgBytes.toNat, ha,
      zext_lowByte_of_highByte hhigh]
  | two =>
    simp [contentPacket, contentBytes, argumentBytes, byteAt, Config.headerLen, ArgBytes.toNat, ha,
      joinBytes_high_low]

/-- R110, R112: the content of a well-formed Packet with two bytes after it decodes by the two bytes. -/
theorem decodeFrame_contentBytes {c : Config} {p : Packet} (h : p.wellFormed c = true) (lo hi : Byte) :
    decodeFrame c (contentBytes c p ++ [lo, hi]) =
      if checksum16 (contentBytes c p) = joinBytes hi lo then .ok p else .error .checksum := by
  rw [decodeFrame_content_append (contentBytes_length_of_wellFormed h) (byteAt_contentBytes_length c p)
    (lengthByte_le_payloadMax h), contentPacket_contentBytes h]

/-! ### A frame with one byte replaced -/

theorem encodeFrame_eq_some_iff {c : Config} {p : Packet} {f : List Byte} :
    encodeFrame c p = some f ↔ p.wellFormed c = true ∧
      contentBytes c p ++ [lowByte (checksum16 (contentBytes c p)), highByte (checksum16 (contentBytes c p))] = f := by
  simp [encodeFrame]

/-- R86 item 1: one content byte replaced, `payload_len` apart. The structure is as it was and the sum is not. -/
theorem decodeFrame_set_content {c : Config} {p : Packet} {f : List Byte} (hf : encodeFrame c p = some f) {j : Nat}
    {b b' : Byte} (hcontent : j < (contentBytes c p).length) (hj : j ≠ c.headerLen - 1) (hb : f[j]? = some b)
    (hne : b' ≠ b) : decodeFrame c (f.set j b') = .error .checksum := by
  obtain ⟨hwf, rfl⟩ := encodeFrame_eq_some_iff.1 hf
  rw [List.getElem?_append_left hcontent] at hb
  have hlen := (List.length_set (i := j) (a := b')).trans (contentBytes_length_of_wellFormed hwf)
  have hn := (byteAt_set_ne b' hj).trans (byteAt_contentBytes_length c p)
  rw [List.set_append_left _ _ hcontent, decodeFrame_content_append hlen hn (lengthByte_le_payloadMax hwf),
    joinBytes_high_low, if_neg (checksum16_set_ne hb hne)]

/-- Two bytes after the content that are not its checksum. -/
theorem decodeFrame_wrong_checksum {c : Config} {p : Packet} (h : p.wellFormed c = true) {lo hi : Byte}
    (hne : ¬ (lo = lowByte (checksum16 (contentBytes c p)) ∧ hi = highByte (checksum16 (contentBytes c p)))) :
    decodeFrame c (contentBytes c p ++ [lo, hi]) = .error .checksum := by
  rw [decodeFrame_contentBytes h, if_neg]
  intro heq
  rw [heq, lowByte_joinBytes, highByte_joinBytes] at hne
  exact hne ⟨rfl, rfl⟩

/-- R86 item 2: one of the two checksum bytes replaced. -/
theorem decodeFrame_set_checksum {c : Config} {p : Packet} {f : List Byte} (hf : encodeFrame c p = some f) {j : Nat}
    {b b' : Byte} (hcontent : (contentBytes c p).length ≤ j) (hb : f[j]? = some b) (hne : b' ≠ b) :
    decodeFrame c (f.set j b') = .error .checksum := by
  obtain ⟨hwf, rfl⟩ := encodeFrame_eq_some_iff.1 hf
  rw [List.getElem?_append_right hcontent] at hb
  rw [List.set_append_right _ _ hcontent]
  match hk : j - (contentBytes c p).length with
  | 0 =>
    obtain rfl : lowByte (checksum16 (contentBytes c p)) = b := by simpa [hk] using hb
    exact decodeFrame_wrong_checksum hwf fun h => hne h.1
  | 1 =>
    obtain rfl : highByte (checksum16 (contentBytes c p)) = b := by simpa [hk] using hb
    exact decodeFrame_wrong_checksum hwf fun h => hne h.2
  | k + 2 => simp [hk] at hb

/-- R86 items 1 and 2: a frame with one byte replaced, `payload_len` apart, is a checksum error. -/
theorem decodeFrame_set {c : Config} {p : Packet} {f : List Byte} (hf : encodeFrame c p = some f) {j : Nat}
    {b b' : Byte} (hj : j ≠ c.headerLen - 1) (hb : f[j]? = some b) (hne : b' ≠ b) :
    decodeFrame c (f.set j b') = .error .checksum := by
  rcases Nat.lt_or_ge j (contentBytes c p).length with hcontent | hcontent
  · exact decodeFrame_set_content hf hcontent hj hb hne
  · exact decodeFrame_set_checksum hf hcontent hb hne

theorem xor_twoPow_ne (b : Byte) {k : Nat} (hk : k < 8) : b ^^^ BitVec.twoPow 8 k ≠ b := by
  intro h
  have hbit := congrArg (BitVec.getLsbD · k) h
  simp [hk] at hbit

/-! ### The obligations -/

/-- Settles O20: `CS_CLR` leaves 0, the operations up to `CS_GET` add their bytes to it (`run_commands_csAcc`), and
`CS_GET` answers with the complement. -/
theorem csUnitComputesChecksum16 : Obligations.CsUnitComputesChecksum16 := by
  intro s ops hs hops
  have hstart : Inv { s with pending := commands (.csClr :: ops ++ [.csGet]) } := hs.congr rfl rfl rfl
  obtain ⟨u, hclr, hexecClr, hu, hpu⟩ := step_command_completes hstart (i := .csClr)
    (rest := commands ops ++ commands [.csGet]) (by simp [commands])
  obtain ⟨v, hrun, hv, hpv, hacc⟩ := run_commands_csAcc hops 1 hu hpu
  obtain ⟨t, hget, hexecGet, -, -⟩ := step_command_completes hv (i := .csGet) (rest := []) hpv
  refine ⟨t, (run_succ hclr _).trans (hrun.trans (run_succ hget 0)), ?_⟩
  have hzero : u.csAcc = 0 := by rw [complete_eq_next.1 hexecClr, State.respond_csAcc]
  rw [complete_eq_next.1 hexecGet, State.respond_responses, List.getLast?_concat, hacc, hzero, accChecksum_foldl]

/-- Settles O56: the sum is additive and does not see the order, and it alone fixes the checksum
(`checksum16_eq_iff`). -/
theorem checksum16Incremental : Obligations.Checksum16Incremental := by
  refine ⟨fun d e => ?_, fun d => ⟨foldl_accAdd_zero_toNat d, accChecksum_foldl d⟩, rfl, fun d e h => ?_, fun d => ?_,
    fun d e => checksum16_eq_iff.2⟩
  · rw [byteSum_append, Nat.mod_add_mod]
  · rw [checksum16_eq_iff, byteSum_perm h]
  · rw [checksum16_eq_iff, byteSum_append, byteSum_singleton]
    rfl

/-- Settles O60. A flipped bit makes another byte, so `decodeFrame_set` detects it. The frame of a payload `FF FF` with
everything else 0 loses its payload when bit 1 of its `payload_len` is flipped: the payload is then read as the
checksum, and it is the right one. A content with the same sum has the same checksum. -/
theorem checksumDetection : Obligations.ChecksumDetection := by
  refine ⟨fun c p f j k b hf hj hk hb => decodeFrame_set hf hj hb (xor_twoPow_ne b hk), ?_, fun c p q _ hq hsum => ?_⟩
  · exact ⟨{}, ⟨0, 0, 0, 0, [0xFF, 0xFF]⟩, ⟨0, 0, 0, 0, []⟩, [0, 0, 0, 0, 2, 0xFF, 0xFF, 0xFF, 0xFD], 2, 1, by decide⟩
  · rw [← checksum16_eq_iff.2 hsum, decodeFrame_contentBytes hq, joinBytes_high_low, if_pos rfl]

/-- Settles O17, by the format of the operation. -/
theorem csClrZeroesTheSum : Obligations.CsClrZeroesTheSum := ⟨issuesZ_of_format (i := .csClr) rfl, fun _ => rfl⟩

/-- Settles O18: the running sum in its 16 bits is the sum modulo 65536. -/
theorem csAddAddsModulo65536 : Obligations.CsAddAddsModulo65536 := by
  refine ⟨issuesB_of_format (fun _ => rfl) (fun _ => rfl) (fun _ => rfl), fun s b => ?_⟩
  have hsum : accAdd s.csAcc b = BitVec.ofNat 16 ((s.csAcc.toNat + b.toNat) % 65536) := by
    rw [← accAdd_toNat, BitVec.ofNat_toNat, BitVec.setWidth_eq]
  rw [← hsum]
  rfl

/-- Settles O19: the complement of 16 bits is the difference from 65535. -/
theorem csGetReturnsTheComplement : Obligations.CsGetReturnsTheComplement := by
  refine ⟨issuesZ_of_format (i := .csGet) rfl, fun s => ?_⟩
  have hcomplement : accChecksum s.csAcc = BitVec.ofNat 16 (65535 - s.csAcc.toNat) := by
    rw [← accChecksum_toNat, BitVec.ofNat_toNat, BitVec.setWidth_eq]
  rw [← hcomplement]
  rfl

/-- Settles O55: the complement of 16 bits, as bits and as a number. -/
theorem checksum16Formula : Obligations.Checksum16Formula :=
  fun d => ⟨checksum16_toNat_xor d, checksum16_toNat d⟩

end Sys2Proof.Machine
end

section
/-!
PROOFS. 41_framer_tx.md: the operations of the TX family (R93 to R102), `TxByte` (R106), the Packet while emitting
(R103), `Encode` (R90, R91), and the two halves of R107: loading a Packet (`run_txPush`) and emitting its frame
(`run_txPop`). Both halves are inductions over the operations still pending; for the emission, `Inv` gives the sum at
every position, so one `TX_POP` is followed at a time.
-/

open Sys2Proof Sys2Proof.Machine Sys2Proof.Certificates

namespace Sys2Proof.Machine

/-! ### Values written as numbers -/

theorem eq_ofNat_of_toNat {w n : Nat} {x : BitVec w} (h : x.toNat = n) : x = BitVec.ofNat w n := by
  rw [← h, BitVec.ofNat_toNat, BitVec.setWidth_eq]

theorem add_one_eq_ofNat {w : Nat} (x : BitVec w) : x + 1#w = BitVec.ofNat w (x.toNat + 1) := by
  rw [BitVec.ofNat_add, BitVec.ofNat_toNat, BitVec.setWidth_eq]

theorem zext_eq_ofNat (b : Byte) : zext b = BitVec.ofNat 16 b.toNat := eq_ofNat_of_toNat (zext_toNat b)

theorem accAdd_eq_ofNat (a : Half) (b : Byte) : accAdd a b = BitVec.ofNat 16 ((a.toNat + b.toNat) % 65536) :=
  eq_ofNat_of_toNat (accAdd_toNat a b)

/-- `LAST` is bit 8 of the result (R100). -/
theorem joinBytes_one_eq_ofNat (b : Byte) : joinBytes 1 b = BitVec.ofNat 16 (256 + b.toNat) :=
  eq_ofNat_of_toNat (joinBytes_toNat 1 b)

/-- R33: the state in bits 15:14, the position in bits 8:0. -/
theorem txStatusWord_toNat (t : TxUnit) :
    (txStatusWord t).toNat = (if t.state = .emit then 0x4000 else 0) + t.pos.toNat := by
  have hpos := t.pos.isLt
  rw [txStatusWord, BitVec.toNat_append, ← Nat.shiftLeft_add_eq_or_of_lt hpos]
  cases t.state <;> rfl

/-! ### The operations by case -/

/-- R98: at `PAYLOAD_MAX` nothing is stored. -/
theorem execTxPush_full {s : State} (hload : s.tx.state = .load) (hfull : s.tx.len = s.cfg.payloadMax) (b : Byte) :
    execTxPush b s = refuse .full s := by
  rw [execTxPush, whileLoading_load hload, if_pos hfull]

/-- R98: below `PAYLOAD_MAX` the byte goes to `TX_BUF:TX_LEN`. -/
theorem execTxPush_room {s : State} (hload : s.tx.state = .load) (hroom : s.tx.len.toNat < s.cfg.payloadMax.toNat)
    (b : Byte) :
    execTxPush b s =
      .next { s with
        tx := { s.tx with len := BitVec.ofNat 8 (s.tx.len.toNat + 1), buf := s.tx.buf.write s.tx.len b }
        responses := s.responses ++ [rspWord .ok (BitVec.ofNat 16 (s.tx.len.toNat + 1))] } := by
  have hne : s.tx.len ≠ s.cfg.payloadMax := BitVec.toNat_ne_iff_ne.1 hroom.ne
  have hsucc := len_succ_toNat (BitVec.le_def.2 hroom.le) hne
  rw [execTxPush, whileLoading_load hload, if_neg hne, zext_eq_ofNat, hsucc, ← add_one_eq_ofNat]
  rfl

/-- R99. -/
theorem execTxStart_load {s : State} (hload : s.tx.state = .load) :
    execTxStart s = complete 0 { s with tx := { s.tx with state := .emit, pos := 0, acc := 0 } } :=
  whileLoading_load hload _

theorem execTxPop_load {s : State} (hload : s.tx.state = .load) : execTxPop s = refuse .badState s := by
  rw [execTxPop, hload]

/-- R100, first branch. -/
theorem execTxPop_content {s : State} (hemit : s.tx.state = .emit)
    (hpos : s.tx.pos.toNat < s.cfg.contentLen s.tx.len.toNat) {b : Byte}
    (hb : txByte s.cfg s.tx s.tx.pos.toNat = some b) :
    execTxPop s = complete (zext b) { s with tx := { s.tx with acc := accAdd s.tx.acc b, pos := s.tx.pos + 1 } } := by
  rw [execTxPop, hemit]
  simp only [if_pos hpos, popContent, hb]

/-- R100, second branch. -/
theorem execTxPop_low {s : State} (hemit : s.tx.state = .emit)
    (hpos : s.tx.pos.toNat = s.cfg.contentLen s.tx.len.toNat) :
    execTxPop s =
      complete (zext (lowByte (accChecksum s.tx.acc))) { s with tx := { s.tx with pos := s.tx.pos + 1 } } := by
  rw [execTxPop, hemit]
  simp only [if_neg hpos.not_lt, if_pos hpos, popChecksumLow]

/-- R100, last branch. -/
theorem execTxPop_last {s : State} (hemit : s.tx.state = .emit)
    (hpos : s.tx.pos.toNat = s.cfg.contentLen s.tx.len.toNat + 1) :
    execTxPop s =
      complete (joinBytes 1 (highByte (accChecksum s.tx.acc)))
        { s with tx := { s.tx with state := .load, pos := 0 } } := by
  rw [execTxPop, hemit]
  simp only [if_neg (show ¬ s.tx.pos.toNat < s.cfg.contentLen s.tx.len.toNat by omega),
    if_neg (show ¬ s.tx.pos.toNat = s.cfg.contentLen s.tx.len.toNat by omega), popLast]

/-! ### `TxByte` -/

/-- R106: `payload_len` is the last header byte. -/
theorem txByte_len (c : Config) (t : TxUnit) : txByte c t (3 + c.argBytes.toNat) = some t.len := by
  rw [txByte_header c t (by rw [Config.headerLen_eq]; omega)]
  cases ha : c.argBytes with
  | one | two => simp [headerBytes, argumentBytes, ArgBytes.toNat, ha]

/-- R106: the checksum positions are not given. -/
theorem txByte_past (c : Config) (t : TxUnit) {q : Nat} (hq : c.contentLen t.len.toNat ≤ q) : txByte c t q = none := by
  have hH5 := c.headerLen_le
  have hH := c.headerLen_eq
  have hC := c.contentLen_eq t.len.toNat
  have h4 : ¬ (q = 4 ∧ c.argBytes = .two) := fun ⟨hq4, _⟩ => by omega
  rw [txByte, if_neg (by omega), if_neg (by omega), if_neg (by omega), if_neg (by omega), if_neg h4,
    if_neg (by omega), if_neg (by omega)]

/-! ### The frame and the responses that deliver it -/

section
variable {c : Config} {t : TxUnit} {f : List Byte} (hfilled : t.buf.filled t.len.toNat)
  (hf : encodeFrame c t.packet = some f)
include hfilled hf

theorem frame_length : f.length = c.frameLen t.len.toNat := by
  obtain ⟨-, rfl⟩ := encodeFrame_eq_some_iff.1 hf
  rw [List.length_append, contentBytes_packet_length hfilled]
  rfl

theorem frame_content {q : Nat} (hq : q < c.contentLen t.len.toNat) : f[q]? = txByte c t q := by
  obtain ⟨-, rfl⟩ := encodeFrame_eq_some_iff.1 hf
  rw [txByte_eq_content hfilled hq, List.getElem?_append_left (by rwa [contentBytes_packet_length hfilled])]

theorem frame_checksum_low :
    f[c.contentLen t.len.toNat]? = some (lowByte (checksum16 (contentBytes c t.packet))) := by
  obtain ⟨-, rfl⟩ := encodeFrame_eq_some_iff.1 hf
  rw [← contentBytes_packet_length hfilled, List.getElem?_append_right le_rfl, Nat.sub_self]
  rfl

theorem frame_checksum_high :
    f[c.contentLen t.len.toNat + 1]? = some (highByte (checksum16 (contentBytes c t.packet))) := by
  obtain ⟨-, rfl⟩ := encodeFrame_eq_some_iff.1 hf
  rw [← contentBytes_packet_length hfilled, List.getElem?_append_right (Nat.le_add_right ..), Nat.add_sub_cancel_left]
  rfl

end

theorem popResponses_length (f : List Byte) : (popResponses f).length = f.length := List.length_mapIdx

/-- Before the last byte the response is the byte. -/
theorem popResponses_getElem? {f : List Byte} {q : Nat} {b : Byte} (hb : f[q]? = some b) (hq : q + 1 < f.length) :
    (popResponses f)[q]? = some (rspWord .ok (zext b)) := by
  rw [popResponses, List.getElem?_mapIdx, hb, Option.map_some, if_neg hq.ne, Nat.zero_add, zext_eq_ofNat]

/-- The last byte comes with `LAST`. -/
theorem popResponses_last {f : List Byte} {q : Nat} {b : Byte} (hb : f[q]? = some b) (hq : q + 1 = f.length) :
    (popResponses f)[q]? = some (rspWord .ok (joinBytes 1 b)) := by
  rw [popResponses, List.getElem?_mapIdx, hb, Option.map_some, if_pos hq, joinBytes_one_eq_ofNat]

/-! ### One operation of a run -/

/-- An operation that the host has pending is the next step of the run. -/
theorem run_command {i : Instr} {s t : State} {rest : List PortEvent}
    (h : exec i { s with pending := rest } = .next t) (k : Nat) :
    Sys2Proof.core.run (k + 1) { s with pending := .command (encode i) :: rest } = Sys2Proof.core.run k t :=
  run_succ ((step_encode i s rest).trans h) k

theorem Inv.with_pending {s : State} (h : Inv s) (rest : List PortEvent) : Inv { s with pending := rest } :=
  h.congr rfl rfl rfl

theorem exec_keeps_inv {i : Instr} {s t : State} (h : Inv s) (ht : exec i s = .next t) : Inv t :=
  step_keeps_inv (h.with_pending (.command (encode i) :: s.pending)) ((step_encode i s s.pending).trans ht)

/-! ### Emitting the frame -/

/-- R37 (c): with every content byte delivered, `TX_ACC` is the sum of the content. -/
theorem Inv.tx_acc_content {s : State} (h : Inv s) (hemit : s.tx.state = .emit)
    (hpos : s.cfg.contentLen s.tx.len.toNat ≤ s.tx.pos.toNat) :
    s.tx.acc = BitVec.ofNat 16 (byteSum (contentBytes s.cfg s.tx.packet) % 65536) := by
  apply eq_ofNat_of_toNat
  rw [h.tx_emit_acc hemit, min_eq_right hpos, ← contentBytes_packet_length h.tx_filled, List.take_length]

/-- R100: up to the low checksum byte, a `TX_POP` answers the frame's byte at `TX_POS` and goes on to the next. -/
theorem execTxPop_delivers {s : State} (h : Inv s) (hemit : s.tx.state = .emit) {f : List Byte}
    (hf : encodeFrame s.cfg s.tx.packet = some f) (hpos : s.tx.pos.toNat ≤ s.cfg.contentLen s.tx.len.toNat) :
    ∃ r a, (popResponses f)[s.tx.pos.toNat]? = some r ∧
      execTxPop s = .next { s with
        tx := { s.tx with acc := a, pos := s.tx.pos + 1 }, responses := s.responses ++ [r] } := by
  have hlen := frame_length h.tx_filled hf
  rw [Config.frameLen_eq] at hlen
  rcases hpos.lt_or_eq with hlt | heq
  · have hbyte := frame_content h.tx_filled hf hlt
    obtain ⟨b, hb⟩ : ∃ b, f[s.tx.pos.toNat]? = some b := ⟨_, List.getElem?_eq_getElem (by omega)⟩
    exact ⟨_, _, popResponses_getElem? hb (by omega), execTxPop_content hemit hlt (hbyte.symm.trans hb)⟩
  · have hb := frame_checksum_low h.tx_filled hf
    rw [checksum16_eq_accChecksum, ← h.tx_acc_content hemit heq.ge, ← heq] at hb
    exact ⟨_, s.tx.acc, popResponses_getElem? hb (by omega), execTxPop_low hemit heq⟩

/-- R100, R104: the last `TX_POP` answers the last byte with `LAST`; the unit is back in `LOAD` with its Packet. -/
theorem execTxPop_delivers_last {s : State} (h : Inv s) (hemit : s.tx.state = .emit) {f : List Byte}
    (hf : encodeFrame s.cfg s.tx.packet = some f) (hpos : s.tx.pos.toNat = s.cfg.contentLen s.tx.len.toNat + 1) :
    ∃ r, (popResponses f)[s.tx.pos.toNat]? = some r ∧
      execTxPop s = .next { s with
        tx := { s.tx with state := .load, pos := 0 }, responses := s.responses ++ [r] } := by
  have hlen := frame_length h.tx_filled hf
  rw [Config.frameLen_eq] at hlen
  have hb := frame_checksum_high h.tx_filled hf
  rw [checksum16_eq_accChecksum, ← h.tx_acc_content hemit (by omega), ← hpos] at hb
  exact ⟨_, popResponses_last hb (by omega), execTxPop_last hemit hpos⟩

/-- R104: in `LOAD` and at position 0 there is nothing to put back. -/
theorem TxUnit.loading_with_acc {t : TxUnit} (hload : t.state = .load) (hpos : t.pos = 0) (a : Half) :
    { t with state := .load, pos := 0, acc := a } = { t with acc := a } := by
  rw [← hload, ← hpos]

/-- R107: from any position of the frame, as many `TX_POP`s as bytes are left deliver these bytes. -/
theorem run_txPop (k : Nat) {s : State} (h : Inv s) (hemit : s.tx.state = .emit) {f : List Byte}
    (hf : encodeFrame s.cfg s.tx.packet = some f)
    (hpos : s.tx.pos.toNat + k = s.cfg.contentLen s.tx.len.toNat + 1) :
    Sys2Proof.core.run (k + 1) { s with pending := commands (List.replicate (k + 1) .txPop) } =
      .next { s with
        tx := { s.tx with
          state := .load, pos := 0, acc := BitVec.ofNat 16 (byteSum (contentBytes s.cfg s.tx.packet) % 65536) }
        pending := []
        responses := s.responses ++ (popResponses f).drop s.tx.pos.toNat } := by
  induction k generalizing s with
  | zero =>
    obtain ⟨r, hr, hexec⟩ := execTxPop_delivers_last (h.with_pending []) hemit hf hpos
    have hend : (popResponses f).length ≤ s.tx.pos.toNat + 1 := by
      rw [popResponses_length, frame_length h.tx_filled hf, Config.frameLen_eq]
      omega
    refine (run_command (i := .txPop) hexec 0).trans ?_
    rw [List.drop_eq_getElem?_toList_append, hr, List.drop_eq_nil_of_le hend, ← h.tx_acc_content hemit (by omega)]
    rfl
  | succ k ih =>
    obtain ⟨r, a, hr, hexec⟩ := execTxPop_delivers (h.with_pending (commands (List.replicate (k + 1) .txPop))) hemit
      hf (show s.tx.pos.toNat ≤ s.cfg.contentLen s.tx.len.toNat by omega)
    have hsucc := pos_succ_toNat (h.tx_emit_pos hemit)
    have hinv := exec_keeps_inv (i := .txPop) (h.with_pending _) hexec
    refine (run_command (i := .txPop) hexec (k + 1)).trans ?_
    refine (ih hinv hemit hf ?_).trans ?_
    · show (s.tx.pos + 1).toNat + k = s.cfg.contentLen s.tx.len.toNat + 1
      omega
    · rw [List.drop_eq_getElem?_toList_append (i := s.tx.pos.toNat), hr, ← hsucc, ← List.append_assoc]
      rfl

/-! ### Loading a Packet -/

/-- The TX unit after the five operations that begin `TX_LOAD p` (R74). -/
def TxUnit.withHeader (p : Packet) (m : Memory) : TxUnit :=
  { TxUnit.atReset m with src := p.source, dst := p.destination, cmd := p.command, arg := p.argument }

/-- The next step of a run, where the operation completes in the TX unit. -/
theorem run_tx_command {i : Instr} {s : State} {t t' : TxUnit} {rest : List PortEvent} {rs : List RspWord} {r : RspWord}
    (h : exec i { s with tx := t, pending := rest, responses := rs } =
      .next { s with tx := t', pending := rest, responses := rs ++ [r] }) (k : Nat) :
    Sys2Proof.core.run (k + 1) { s with tx := t, pending := .command (encode i) :: rest, responses := rs } =
      Sys2Proof.core.run k { s with tx := t', pending := rest, responses := rs ++ [r] } :=
  run_command (s := { s with tx := t, responses := rs }) h k

/-- R107: `TX_LOAD p` up to its payload, from any state. The goal tells each operation's start, so its answer is
computed (`by rfl`) after that. -/
theorem run_txLoad_header {s : State} {p : Packet} (hfits : s.cfg.argBytes.fits p.argument = true) (k : Nat) :
    Sys2Proof.core.run (k + 5) { s with pending := commands (txLoad p) } =
      Sys2Proof.core.run k { s with
        tx := TxUnit.withHeader p s.tx.buf
        pending := commands (p.payload.map .txPush)
        responses := s.responses ++ List.replicate 5 (rspWord .ok 0) } := by
  refine (run_tx_command (i := .txClr) (s := s) rfl _).trans ?_
  refine (run_tx_command (i := .txSetSrc p.source) (s := s) (by rfl) _).trans ?_
  refine (run_tx_command (i := .txSetDst p.destination) (s := s) (by rfl) _).trans ?_
  refine (run_tx_command (i := .txSetCmd p.command) (s := s) (by rfl) _).trans ?_
  refine (run_tx_command (i := .txSetArg p.argument) (s := s) (by exact if_pos hfits) _).trans ?_
  simp only [List.append_assoc]
  rfl

/-- R107: pushing a payload that fits appends it to the payload held. -/
theorem run_txPush (d : List Byte) {s : State} (hload : s.tx.state = .load)
    (hfits : s.tx.len.toNat + d.length ≤ s.cfg.payloadMax.toNat) :
    ∃ m, Sys2Proof.core.run d.length { s with pending := commands (d.map .txPush) } =
        .next { s with
          tx := { s.tx with len := BitVec.ofNat 8 (s.tx.len.toNat + d.length), buf := m }
          pending := []
          responses := s.responses ++
            (List.range d.length).map fun k => rspWord .ok (BitVec.ofNat 16 (s.tx.len.toNat + k + 1)) } ∧
      m.slice (s.tx.len.toNat + d.length) = s.tx.buf.slice s.tx.len.toNat ++ d := by
  induction d generalizing s with
  | nil => exact ⟨s.tx.buf, by simp [Host.Core.run, commands], by simp⟩
  | cons b d ih =>
    rw [List.length_cons] at hfits
    have hexec := execTxPush_room (s := { s with pending := commands (d.map .txPush) }) hload
      (show s.tx.len.toNat < s.cfg.payloadMax.toNat by omega) b
    have hlen : (BitVec.ofNat 8 (s.tx.len.toNat + 1)).toNat = s.tx.len.toNat + 1 := by
      have := s.cfg.payloadMax.isLt
      rw [BitVec.toNat_ofNat]
      omega
    have hnum (k : Nat) : s.tx.len.toNat + 1 + k = s.tx.len.toNat + (k + 1) := by omega
    obtain ⟨m, hrun, hslice⟩ := ih (s := { s with
      tx := { s.tx with len := BitVec.ofNat 8 (s.tx.len.toNat + 1), buf := s.tx.buf.write s.tx.len b }
      responses := s.responses ++ [rspWord .ok (BitVec.ofNat 16 (s.tx.len.toNat + 1))] }) hload
      (show (BitVec.ofNat 8 (s.tx.len.toNat + 1)).toNat + d.length ≤ s.cfg.payloadMax.toNat by omega)
    simp only [hlen, hnum] at hrun hslice
    refine ⟨m, (run_command (i := .txPush b) hexec d.length).trans (hrun.trans ?_), ?_⟩
    · rw [List.length_cons, List.range_succ_eq_map, List.map_cons, List.map_map, List.append_assoc]
      rfl
    · rw [List.length_cons, hslice, Memory.write, Memory.slice_writeAt, List.append_assoc]
      rfl

/-! ### The obligations -/

/-- Settles O30: `TX_START` puts the unit at position 0 of the frame, and the `TX_POP`s deliver all of it
(`run_txPop`). -/
theorem emissionDeliversTheEncodedFrame : Obligations.EmissionDeliversTheEncodedFrame := by
  intro s h hload
  obtain ⟨f, hf⟩ : ∃ f, encodeFrame s.cfg s.tx.packet = some f := ⟨_, if_pos h.packet_wellFormed⟩
  have hlen := frame_length h.tx_filled hf
  refine ⟨f, hf, hlen, ?_⟩
  obtain ⟨k, hk⟩ : ∃ k, f.length = k + 1 := ⟨_, hlen⟩
  have hexec := execTxStart_load (s := { s with pending := commands (List.replicate (k + 1) .txPop) }) hload
  have hstart : Inv { s with tx := { s.tx with state := .emit, pos := 0, acc := 0 } } :=
    (TxChange.start hload).keeps_inv h
  rw [hk]
  refine (run_command (i := .txStart) hexec (k + 1)).trans ?_
  refine (run_txPop k (s := { s with
    tx := { s.tx with state := .emit, pos := 0, acc := 0 }, responses := s.responses ++ [rspWord .ok 0] })
    (hstart.congr rfl rfl rfl) rfl hf ?_).trans ?_
  · show 0 + k = s.cfg.contentLen s.tx.len.toNat + 1
    rw [Config.frameLen_eq] at hlen
    omega
  · have hpos := h.tx_load hload
    rw [List.append_assoc, ← TxUnit.loading_with_acc hload hpos]
    rfl

/-- Settles O31: the five operations of the header (`run_txLoad_header`), then the payload byte by byte
(`run_txPush`). -/
theorem loadingAPacketHoldsIt : Obligations.LoadingAPacketHoldsIt := by
  intro s p hwf
  obtain ⟨hfits, hmax⟩ := packet_wellFormed_iff.1 hwf
  obtain ⟨m, hrun, hslice⟩ := run_txPush p.payload (s := { s with
    tx := TxUnit.withHeader p s.tx.buf, responses := s.responses ++ List.replicate 5 (rspWord .ok 0) }) rfl
    (by simpa [TxUnit.withHeader, TxUnit.atReset] using hmax)
  simp only [show (TxUnit.withHeader p s.tx.buf).len.toNat = 0 from rfl, Nat.zero_add, Memory.slice_zero,
    List.nil_append] at hrun hslice
  have hlen := lengthByte_toNat hwf
  refine ⟨_, (run_txLoad_header hfits _).trans hrun, ?_, hlen, rfl, rfl, rfl, rfl, rfl, rfl, rfl⟩
  simp [TxUnit.packet, TxUnit.withHeader, hlen, hslice]

/-- Settles O29: `txByte_eq_content`, and the content is as long as the positions asked for. -/
theorem txByteAgreesWithTheContent : Obligations.TxByteAgreesWithTheContent := by
  intro c t q hfilled hq
  have hbyte := txByte_eq_content hfilled hq
  refine ⟨hbyte, ?_⟩
  rw [hbyte, isSome_getElem?, contentBytes_packet_length hfilled]
  exact hq

/-- Settles O32. Of the changes to the TX unit (`exec_changes`), those of the loading operations need `LOAD`, and those
of `TX_POP` leave the Packet as it is. -/
theorem packetIsImmutableWhileEmitting : Obligations.PacketIsImmutableWhileEmitting := by
  intro s i hemit
  have hnot : ¬ s.tx.state = .load := by simp [hemit]
  refine ⟨fun hi t ht => ?_, fun hi => ?_⟩
  · obtain ⟨-, -, -, htx, -⟩ := exec_changes ht
    generalize t.tx = u at htx
    cases htx with
    | same | popContent | popLow | popLast => exact ⟨rfl, rfl, rfl, rfl, rfl, rfl⟩
    | clear => exact absurd rfl hi
    | setSrc hload | setDst hload | setCmd hload | setArg hload | push hload | start hload => exact absurd hload hnot
  · obtain rfl | ⟨x, rfl⟩ | ⟨b, rfl | rfl | rfl | rfl⟩ := hi
    all_goals exact whileLoading_emit hemit _

/-- Settles O57: a frame is decoded to its Packet (`decodeFrame_contentBytes`), so no other Packet has it. -/
theorem encodeLengthAndInjectivity : Obligations.EncodeLengthAndInjectivity := by
  intro c p
  have hdecode {q : Packet} {f : List Byte} (hf : encodeFrame c q = some f) : decodeFrame c f = .ok q := by
    obtain ⟨hwf, rfl⟩ := encodeFrame_eq_some_iff.1 hf
    rw [decodeFrame_contentBytes hwf, joinBytes_high_low, if_pos rfl]
  refine ⟨by simp [encodeFrame], fun f hf => ⟨?_, fun q hq => ?_, hdecode hf⟩⟩
  · obtain ⟨-, rfl⟩ := encodeFrame_eq_some_iff.1 hf
    rw [List.length_append, contentBytes_length]
    rfl
  · exact Except.ok.inj ((hdecode hq).symm.trans (hdecode hf))

/-- Settles O21, by the format of the operation. -/
theorem txClrResetsTheFramer : Obligations.TxClrResetsTheFramer := ⟨issuesZ_of_format (i := .txClr) rfl, fun _ => rfl⟩

/-- Settles O22: each setter is an assignment under the check of R103. -/
theorem txByteSettersWriteTheirField : Obligations.TxByteSettersWriteTheirField := by
  refine ⟨issuesB_of_format (fun _ => rfl) (fun _ => rfl) (fun _ => rfl),
    issuesB_of_format (fun _ => rfl) (fun _ => rfl) (fun _ => rfl),
    issuesB_of_format (fun _ => rfl) (fun _ => rfl) (fun _ => rfl), fun s b => ⟨fun hload => ?_, fun hemit => ?_⟩⟩
  · exact ⟨whileLoading_load hload _, whileLoading_load hload _, whileLoading_load hload _⟩
  · exact ⟨whileLoading_emit hemit _, whileLoading_emit hemit _, whileLoading_emit hemit _⟩

/-- Settles O23: the check of R103, then what fits the wire field (`ArgBytes.fits_iff`). -/
theorem txSetArgRefusesWhatDoesNotFit : Obligations.TxSetArgRefusesWhatDoesNotFit := by
  refine ⟨fun s rest x => step_encode (.txSetArg x) s rest, fun s x =>
    ⟨fun hemit => whileLoading_emit hemit _, fun hload hwide => ?_, fun hload hfits => ?_⟩⟩
  · have hnot : ¬ s.cfg.argBytes.fits x = true := by
      obtain ⟨hone, hx⟩ := hwide
      simpa [ArgBytes.fits_iff, hone] using hx
    exact (whileLoading_load hload _).trans (if_neg hnot)
  · exact (whileLoading_load hload _).trans (if_pos ((ArgBytes.fits_iff _ x).2 hfits))

/-- Settles O24: `execTxPush_full` and `execTxPush_room`, and what a read returns after a write. -/
theorem txPushAppendsOneByte : Obligations.TxPushAppendsOneByte :=
  ⟨issuesB_of_format (fun _ => rfl) (fun _ => rfl) (fun _ => rfl), fun s b =>
    ⟨fun hemit => whileLoading_emit hemit _, fun hload hfull => execTxPush_full hload hfull b, fun hload hroom =>
      ⟨_, execTxPush_room hload hroom b, fun j => Memory.read_write s.tx.buf s.tx.len j b⟩⟩⟩

/-- Settles O25. -/
theorem txStartFreezesThePacket : Obligations.TxStartFreezesThePacket :=
  ⟨issuesZ_of_format (i := .txStart) rfl, fun _ =>
    ⟨execTxStart_load, fun hemit => whileLoading_emit hemit _⟩⟩

/-- Settles O26: the three branches of `TX_POP`, with the complement and its bytes as numbers. -/
theorem txPopDeliversTheNextByte : Obligations.TxPopDeliversTheNextByte := by
  refine ⟨issuesZ_of_format (i := .txPop) rfl, fun s =>
    ⟨execTxPop_load, fun b hemit hpos hb => ?_, fun hemit hpos => ?_, fun hemit hpos => ?_⟩⟩
  · rw [← accAdd_eq_ofNat, ← add_one_eq_ofNat, ← zext_eq_ofNat]
    exact execTxPop_content hemit hpos hb
  · rw [← add_one_eq_ofNat, ← accChecksum_toNat, ← lowByte_toNat, ← zext_eq_ofNat]
    exact execTxPop_low hemit hpos
  · rw [← accChecksum_toNat, ← highByte_toNat, ← joinBytes_one_eq_ofNat]
    exact execTxPop_last hemit hpos

/-- Settles O27: the status word as a number, and the extended length. -/
theorem txReadsReturnTheirRegister : Obligations.TxReadsReturnTheirRegister := by
  refine ⟨issuesZ_of_format (i := .txStat) rfl, issuesZ_of_format (i := .txGetLen) rfl, fun s => ⟨?_, ?_⟩⟩
  · rw [← eq_ofNat_of_toNat (txStatusWord_toNat s.tx)]
    rfl
  · rw [← zext_eq_ofNat]
    rfl

/-- Settles O28, row by row. -/
theorem txByteTable : Obligations.TxByteTable := by
  intro c t
  refine ⟨rfl, rfl, rfl, ?_, fun htwo => ?_, txByte_len c t, fun q hH hq => ?_, fun q hq => txByte_past c t hq⟩
  · rw [← lowByte_toNat, BitVec.ofNat_toNat, BitVec.setWidth_eq]
    rfl
  · rw [← highByte_toNat, BitVec.ofNat_toNat, BitVec.setWidth_eq]
    simp [txByte, htwo]
  · rw [txByte_payload c t hH hq]
    show _ = t.buf.readAt (bufIndex c q).toNat
    rw [bufIndex_toNat hq]

end Sys2Proof.Machine
end

section
/-!
PROOFS. 42_deframer_rx.md: `RxPhase` (R129), the operations of the RX family (R115 to R126, R128), the units' separation
(R130), `Decode` (R110 to R113), and the agreement of the RX unit with `Decode` (R136, R137). The unit is followed byte
by byte from `RX_CLR`: `Fed c r b` says what the unit `r` is after the bytes `b`, `execRxPush_fed` keeps it under one
`RX_PUSH`, and the two statements are read off its four cases (`Fed.progress`, `Fed.decode`).
-/

open Sys2Proof Sys2Proof.Machine Sys2Proof.Certificates

namespace Sys2Proof.Machine

/-! ### `RxPhase` -/

/-- R129: past the header the phase is found by counting the payload. -/
theorem rxPhase_past_header {c : Config} {n : Byte} {q : Nat} (hq : c.headerLen ≤ q) :
    rxPhase c n q =
      if q < c.contentLen n.toNat then some .payload
      else if q = c.contentLen n.toNat then some .ck0
      else if q = c.contentLen n.toNat + 1 then some .ck1
      else none := by
  have hH5 := c.headerLen_le
  have hH := c.headerLen_eq
  have h4 : ¬ (q = 4 ∧ c.argBytes = .two) := by
    rintro ⟨rfl, -⟩
    omega
  rw [rxPhase, if_neg (by omega), if_neg (by omega), if_neg (by omega), if_neg (by omega), if_neg h4,
    if_neg (by omega)]

/-- R129: the phase of a position is the one whose row holds the position. -/
theorem rxPhase_eq_some_iff {c : Config} {n : Byte} {q : Nat} {ph : RxPhase} :
    rxPhase c n q = some ph ↔ ph.At c n q := by
  refine ⟨rxPhase_at, fun hat => ?_⟩
  have hC := c.contentLen_eq n.toNat
  cases ph with
  | src | dst | cmd | arg0 =>
    obtain rfl := hat
    rfl
  | arg1 =>
    obtain ⟨rfl, htwo⟩ := hat
    simp [rxPhase, htwo]
  | len =>
    obtain rfl := hat
    cases ha : c.argBytes with
    | one | two => simp [rxPhase, ArgBytes.toNat, ha]
  | payload =>
    obtain ⟨hle, hlt⟩ := hat
    rw [rxPhase_past_header hle, if_pos hlt]
  | ck0 =>
    simp only [RxPhase.At] at hat
    rw [rxPhase_past_header (by omega), if_neg (by omega), if_pos hat]
  | ck1 =>
    simp only [RxPhase.At] at hat
    rw [rxPhase_past_header (by omega), if_neg (by omega), if_neg (by omega), if_pos hat]

/-! ### The operations by case -/

/-- R116: in `RECV` the byte is taken in the phase of its position. -/
theorem execRxPush_recv {s : State} {ph : RxPhase} (hrecv : s.rx.state = .recv)
    (hat : ph.At s.cfg s.rx.len s.rx.pos.toNat) (b : Byte) :
    execRxPush b s =
      complete (rxStatusWord (s.rx.push s.cfg ph b)) { s with rx := s.rx.push s.cfg ph b } := by
  rw [execRxPush, hrecv]
  simp only [rxPhase_eq_some_iff.2 hat]

/-- R116 with the unit after the byte given by name. -/
theorem execRxPush_recv_eq {s : State} {ph : RxPhase} {b : Byte} {v : RxUnit} (hrecv : s.rx.state = .recv)
    (hat : ph.At s.cfg s.rx.len s.rx.pos.toNat) (hv : v = s.rx.push s.cfg ph b) :
    execRxPush b s =
      .next { s with rx := v, responses := s.responses ++ [rspWord .ok (rxStatusWord v)] } := by
  rw [hv]
  exact execRxPush_recv hrecv hat b

/-- R116, R128: in `DONE` and `ERR` the byte is refused. -/
theorem execRxPush_refused {s : State} (hne : s.rx.state ≠ .recv) (b : Byte) :
    execRxPush b s = refuse .badState s := by
  rw [execRxPush]
  cases hs : s.rx.state with
  | recv => exact absurd hs hne
  | done | err => rfl

/-- R117: in `RECV` the end of the input is a framing error. -/
theorem RxUnit.finish_recv {r : RxUnit} (hrecv : r.state = .recv) : r.finish = r.raise .framing := by
  rw [RxUnit.finish, hrecv]

/-- R117: a finished frame stays as it is. -/
theorem RxUnit.finish_terminal {r : RxUnit} (hne : r.state ≠ .recv) : r.finish = r := by
  rw [RxUnit.finish]
  cases hr : r.state with
  | recv => exact absurd hr hne
  | done | err => rfl

/-- R34: the state in bits 15:14, the error in bits 13:12, the position in bits 8:0. -/
theorem rxStatusWord_toNat (r : RxUnit) :
    (rxStatusWord r).toNat = 0x4000 * rxStateNumber r.state + 0x1000 * rxErrNumber r.err + r.pos.toNat := by
  have hpos := r.pos.isLt
  rw [rxStatusWord, BitVec.toNat_append, ← Nat.shiftLeft_add_eq_or_of_lt hpos]
  cases r.state <;> cases r.err <;> rfl

/-- R126, R82: the complement of 16 bits is the difference from 65535. -/
theorem accChecksum_eq_ofNat (a : Half) : accChecksum a = BitVec.ofNat 16 (65535 - a.toNat) :=
  eq_ofNat_of_toNat (accChecksum_toNat a)

theorem joinBytes_eq_ofNat (hi lo : Byte) : joinBytes hi lo = BitVec.ofNat 16 (256 * hi.toNat + lo.toNat) :=
  eq_ofNat_of_toNat (joinBytes_toNat hi lo)

/-- R116: the comparison of the last byte, as numbers. -/
theorem joinBytes_eq_accChecksum_iff {b : Byte} {ck acc : Half} :
    joinBytes b (lowByte ck) = accChecksum acc ↔ 256 * b.toNat + ck.toNat % 256 = 65535 - acc.toNat := by
  rw [← BitVec.toNat_inj, joinBytes_toNat, lowByte_toNat, accChecksum_toNat]

/-! ### `Decode` by the structure of the sequence -/

/-- The length byte of a sequence, 0 when the sequence ends before it (R110). -/
def declaredLength (c : Config) (b : List Byte) : Byte := byteAt b (c.headerLen - 1)

/-- R110: the sequence holds a whole frame whose length is within `PAYLOAD_MAX`. -/
def FrameComplete (c : Config) (b : List Byte) : Prop :=
  declaredLength c b ≤ c.payloadMax ∧ c.frameLen (declaredLength c b).toNat ≤ b.length

theorem byteAt_of_length_le {b : List Byte} {i : Nat} (h : b.length ≤ i) : byteAt b i = 0 := by
  rw [byteAt, List.getD_eq_default _ _ h]

theorem declaredLength_of_short {c : Config} {b : List Byte} (h : b.length < c.headerLen) : declaredLength c b = 0 :=
  byteAt_of_length_le (by omega)

/-- The length byte is a header byte: what follows the header does not change it. -/
theorem declaredLength_append {c : Config} {d : List Byte} (h : c.headerLen ≤ d.length) (e : List Byte) :
    declaredLength c (d ++ e) = declaredLength c d := by
  have := c.headerLen_le
  exact byteAt_append_left (by omega)

/-- A sequence that reaches past position `k + 1`, cut around the two bytes at `k` and `k + 1`. -/
theorem take_append_two_bytes {b : List Byte} {k : Nat} (h : k + 2 ≤ b.length) :
    b.take k ++ byteAt b k :: byteAt b (k + 1) :: b.drop (k + 2) = b := by
  have hk : byteAt b k = b[k]'(by omega) := (List.getElem_eq_getD 0).symm
  have hk1 : byteAt b (k + 1) = b[k + 1]'(by omega) := (List.getElem_eq_getD 0).symm
  rw [hk, hk1, List.getElem_cons_drop, List.getElem_cons_drop, List.take_append_drop]

/-- The content of the frame at the start of a sequence, by its length byte (R110). -/
def frameContent (c : Config) (b : List Byte) : List Byte := b.take (c.contentLen (declaredLength c b).toNat)

/-- The two bytes after that content, low byte first (R110). -/
def receivedChecksum (c : Config) (b : List Byte) : Half :=
  joinBytes (byteAt b (c.contentLen (declaredLength c b).toNat + 1))
    (byteAt b (c.contentLen (declaredLength c b).toNat))

section
variable {c : Config} {b : List Byte} (h : FrameComplete c b)
include h

/-- R110: a complete sequence is the content, the two checksum bytes and what follows. -/
theorem FrameComplete.cut :
    frameContent c b ++ byteAt b (c.contentLen (declaredLength c b).toNat) ::
        byteAt b (c.contentLen (declaredLength c b).toNat + 1) ::
        b.drop (c.contentLen (declaredLength c b).toNat + 2) = b :=
  take_append_two_bytes h.2

theorem FrameComplete.length_content : (frameContent c b).length = c.contentLen (declaredLength c b).toNat := by
  obtain ⟨-, hlen⟩ := h
  rw [Config.frameLen_eq] at hlen
  exact List.length_take_of_le (by omega)

theorem FrameComplete.declaredLength_content : declaredLength c (frameContent c b) = declaredLength c b := by
  have hC := c.contentLen_eq (declaredLength c b).toNat
  have hlen := h.length_content
  conv_rhs => rw [← h.cut]
  rw [declaredLength_append (by omega)]

/-- R110, R111, R113: of a complete frame, with anything after it, the checksum decides. -/
theorem decodeFrame_append_of_complete (tail : List Byte) :
    decodeFrame c (b ++ tail) =
      if checksum16 (frameContent c b) = receivedChecksum c b then .ok (contentPacket c (frameContent c b))
      else .error .checksum := by
  conv_lhs => rw [← h.cut, List.append_assoc]
  exact decodeFrame_content_append h.length_content h.declaredLength_content h.1 _ _ _

theorem decodeFrame_of_complete :
    decodeFrame c b =
      if checksum16 (frameContent c b) = receivedChecksum c b then .ok (contentPacket c (frameContent c b))
      else .error .checksum := by
  simpa using decodeFrame_append_of_complete h []

end

/-- R110, R111: without a complete frame the structure is at fault, whatever the bytes sum to. -/
theorem decodeFrame_of_not_complete {c : Config} {b : List Byte} (h : ¬ FrameComplete c b) :
    decodeFrame c b = .error .framing := by
  by_cases hshort : b.length < c.headerLen
  · exact if_pos hshort
  by_cases hover : c.payloadMax < declaredLength c b
  · exact (if_neg hshort).trans (if_pos hover)
  have hlen : b.length < c.frameLen (declaredLength c b).toNat :=
    Nat.not_le.1 fun hlen => h ⟨BitVec.not_lt.1 hover, hlen⟩
  exact (if_neg hshort).trans ((if_neg hover).trans (if_pos hlen))

/-- R111: `FramingError` says that there is no complete frame, and nothing of the checksum. -/
theorem decodeFrame_eq_framing_iff {c : Config} {b : List Byte} :
    decodeFrame c b = .error .framing ↔ ¬ FrameComplete c b := by
  refine ⟨fun hframing hcomplete => ?_, decodeFrame_of_not_complete⟩
  rw [decodeFrame_of_complete hcomplete] at hframing
  split_ifs at hframing
  cases hframing

/-- R111: `ChecksumError` is given to complete frames only, and says that the two checksums differ. -/
theorem decodeFrame_eq_checksum_iff {c : Config} {b : List Byte} :
    decodeFrame c b = .error .checksum ↔
      FrameComplete c b ∧ checksum16 (frameContent c b) ≠ receivedChecksum c b := by
  by_cases h : FrameComplete c b
  · rw [decodeFrame_of_complete h]
    split_ifs with heq <;> simp [h, heq]
  · simp [decodeFrame_of_not_complete h, h]

/-- R112: the bytes of a frame depend on `ARG_BYTES` only. -/
theorem contentBytes_congr {c r : Config} (h : r.argBytes = c.argBytes) (p : Packet) :
    contentBytes r p = contentBytes c p := by
  rw [contentBytes, h, contentBytes]

/-- R112: a receiver with the same `ARG_BYTES` and room for the payload would send the same frame. -/
theorem encodeFrame_receiver {c r : Config} {p : Packet} {f : List Byte} (hf : encodeFrame c p = some f)
    (harg : r.argBytes = c.argBytes) (hmax : p.payload.length ≤ r.payloadMax.toNat) : encodeFrame r p = some f := by
  obtain ⟨hwf, rfl⟩ := encodeFrame_eq_some_iff.1 hf
  obtain ⟨hfits, -⟩ := packet_wellFormed_iff.1 hwf
  rw [encodeFrame_eq_some_iff, contentBytes_congr harg]
  exact ⟨packet_wellFormed_iff.2 ⟨harg ▸ hfits, hmax⟩, rfl⟩

/-- R112, R113: a frame followed by anything decodes to its Packet. -/
theorem decodeFrame_encode_append {c : Config} {p : Packet} {f : List Byte} (hf : encodeFrame c p = some f)
    (tail : List Byte) : decodeFrame c (f ++ tail) = .ok p := by
  obtain ⟨hwf, rfl⟩ := encodeFrame_eq_some_iff.1 hf
  rw [List.append_assoc]
  exact (decodeFrame_content_append (contentBytes_length_of_wellFormed hwf) (byteAt_contentBytes_length c p)
    (lengthByte_le_payloadMax hwf) _ _ tail).trans
      (by rw [joinBytes_high_low, if_pos rfl, contentPacket_contentBytes hwf])

/-- R113: bytes after a complete frame change nothing. -/
theorem decodeFrame_append {c : Config} {b : List Byte} (h : FrameComplete c b) (tail : List Byte) :
    decodeFrame c (b ++ tail) = decodeFrame c b :=
  (decodeFrame_append_of_complete h tail).trans (decodeFrame_of_complete h).symm

/-! ### The units share nothing -/

/-- R130: an operation of one unit changes no other. -/
theorem CsChange.eq_of_opUnit {a a' : Half} {i : Instr} (h : CsChange a i a') (hi : opUnit i ≠ .cs) : a' = a := by
  cases h with
  | same => rfl
  | clear | add => exact absurd rfl hi

theorem TxChange.eq_of_opUnit {c : Config} {t t' : TxUnit} {i : Instr} (h : TxChange c t i t')
    (hi : opUnit i ≠ .tx) : t' = t := by
  cases h with
  | same => rfl
  | clear | setSrc | setDst | setCmd | setArg | push | start | popContent | popLow | popLast => exact absurd rfl hi

theorem RxChange.eq_of_opUnit {c : Config} {r r' : RxUnit} {i : Instr} (h : RxChange c r i r')
    (hi : opUnit i ≠ .rx) : r' = r := by
  cases h with
  | same => rfl
  | clear | push | truncate => exact absurd rfl hi

/-- Two states hold the same in the unit `k`. -/
def SameUnit (k : OpUnit) (s u : State) : Prop :=
  match k with
  | .cs => s.csAcc = u.csAcc
  | .tx => s.tx = u.tx
  | .rx => s.rx = u.rx
  | .system => True

theorem sameUnit_iff {k : OpUnit} {s u : State} :
    SameUnit k s u ↔ (k = .cs → s.csAcc = u.csAcc) ∧ (k = .tx → s.tx = u.tx) ∧ (k = .rx → s.rx = u.rx) := by
  cases k <;> simp [SameUnit]

/-- The state `u` with the parameters of `s` and what `s` holds in the unit `k`. -/
def State.withUnit (u : State) (k : OpUnit) (s : State) : State :=
  match k with
  | .cs => { u with cfg := s.cfg, csAcc := s.csAcc }
  | .tx => { u with cfg := s.cfg, tx := s.tx }
  | .rx => { u with cfg := s.cfg, rx := s.rx }
  | .system => { u with cfg := s.cfg }

/-- A state that agrees with `s` on the parameters and the unit already is that one. -/
theorem withUnit_of_sameUnit {k : OpUnit} {s u : State} (hcfg : s.cfg = u.cfg) (h : SameUnit k s u) :
    u.withUnit k s = u := by
  cases k with
  | cs | tx | rx =>
    simp only [SameUnit] at h
    rw [State.withUnit, hcfg, h]
  | system => rw [State.withUnit, hcfg]

/-- Whenever an operation that started in `s` answers a next state by `a`, the one that started in `u` answers one by
`b`, with the same response and the same content of the unit `k`. -/
def AnswersAlike (k : OpUnit) (s u : State) (a b : Result) : Prop :=
  ∀ t, a = .next t → ∃ v r, b = .next v ∧ t.responses = s.responses ++ [r] ∧ v.responses = u.responses ++ [r] ∧
    SameUnit k t v

theorem answersAlike_complete {k : OpUnit} {s u s' u' : State} {d : Half} (hs : s'.responses = s.responses)
    (hu : u'.responses = u.responses) (h : SameUnit k (s'.respond .ok d) (u'.respond .ok d)) :
    AnswersAlike k s u (complete d s') (complete d u') := by
  intro t ht
  obtain rfl := complete_eq_next.1 ht
  exact ⟨_, rspWord .ok d, rfl, by simp [hs], by simp [hu], h⟩

theorem answersAlike_refuse {k : OpUnit} {s u : State} {st : Status}
    (h : SameUnit k (s.respond st 0) (u.respond st 0)) : AnswersAlike k s u (refuse st s) (refuse st u) := by
  intro t ht
  obtain rfl := refuse_eq_next.1 ht
  exact ⟨_, rspWord st 0, rfl, rfl, rfl, h⟩

theorem answersAlike_ite {k : OpUnit} {s u : State} {p : Prop} [Decidable p] {a a' b b' : Result}
    (ha : AnswersAlike k s u a b) (ha' : AnswersAlike k s u a' b') :
    AnswersAlike k s u (if p then a else a') (if p then b else b') := by
  split_ifs
  · exact ha
  · exact ha'

/-- A fault asks nothing of the other state. -/
theorem answersAlike_fault {k : OpUnit} {s u : State} {f : Fault} {b : Result} :
    AnswersAlike k s u (.fault f) b := fun _ ht => nomatch ht

/-- The check of R103 reads `TX_STATE` only. -/
theorem answersAlike_whileLoading {s u : State} {a b : Result} (h : AnswersAlike .tx s (u.withUnit .tx s) a b) :
    AnswersAlike .tx s (u.withUnit .tx s) (whileLoading s a) (whileLoading (u.withUnit .tx s) b) := by
  have hstate : (u.withUnit .tx s).tx.state = s.tx.state := rfl
  rw [whileLoading, whileLoading, hstate]
  cases s.tx.state with
  | load => exact h
  | emit => exact answersAlike_refuse rfl

/-- R100: the byte comes from the TX unit and the parameters. -/
theorem popContent_answersAlike (s u : State) :
    AnswersAlike .tx s (u.withUnit .tx s) (popContent s) (popContent (u.withUnit .tx s)) := by
  have hbyte : txByte (u.withUnit .tx s).cfg (u.withUnit .tx s).tx (u.withUnit .tx s).tx.pos.toNat =
      txByte s.cfg s.tx s.tx.pos.toNat := rfl
  rw [popContent, popContent, hbyte]
  cases txByte s.cfg s.tx s.tx.pos.toNat with
  | some b => exact answersAlike_complete rfl rfl rfl
  | none => exact answersAlike_fault

theorem execTxPop_answersAlike (s u : State) :
    AnswersAlike .tx s (u.withUnit .tx s) (execTxPop s) (execTxPop (u.withUnit .tx s)) := by
  have hstate : (u.withUnit .tx s).tx.state = s.tx.state := rfl
  rw [execTxPop, execTxPop, hstate]
  cases s.tx.state with
  | load => exact answersAlike_refuse rfl
  | emit =>
    refine answersAlike_ite (popContent_answersAlike s u) (answersAlike_ite ?_ ?_)
    · exact answersAlike_complete rfl rfl rfl
    · exact answersAlike_complete rfl rfl rfl

/-- R116: the phase comes from the RX unit and the parameters. -/
theorem execRxPush_answersAlike (b : Byte) (s u : State) :
    AnswersAlike .rx s (u.withUnit .rx s) (execRxPush b s) (execRxPush b (u.withUnit .rx s)) := by
  have hstate : (u.withUnit .rx s).rx.state = s.rx.state := rfl
  have hphase : rxPhase (u.withUnit .rx s).cfg (u.withUnit .rx s).rx.len (u.withUnit .rx s).rx.pos.toNat =
      rxPhase s.cfg s.rx.len s.rx.pos.toNat := rfl
  rw [execRxPush, execRxPush, hstate, hphase]
  cases s.rx.state with
  | recv =>
    cases rxPhase s.cfg s.rx.len s.rx.pos.toNat with
    | some ph => exact answersAlike_complete rfl rfl rfl
    | none => exact answersAlike_fault
  | done | err => exact answersAlike_refuse rfl

/-- R124: the byte comes from the RX unit. -/
theorem execRxRdBuf_answersAlike (j : Byte) (s u : State) :
    AnswersAlike .rx s (u.withUnit .rx s) (execRxRdBuf j s) (execRxRdBuf j (u.withUnit .rx s)) := by
  have hbuf : (u.withUnit .rx s).rx.buf.read j = s.rx.buf.read j := rfl
  refine answersAlike_ite (answersAlike_refuse rfl) ?_
  rw [hbuf]
  cases s.rx.buf.read j with
  | some b => exact answersAlike_complete rfl rfl rfl
  | none => exact answersAlike_fault

/-- R105, R130: an operation reads the parameters and its own unit only. -/
theorem exec_answersAlike (i : Instr) (s u : State) :
    AnswersAlike (opUnit i) s (u.withUnit (opUnit i) s) (exec i s) (exec i (u.withUnit (opUnit i) s)) := by
  cases i with
  | txSetSrc | txSetDst | txSetCmd | txStart =>
    exact answersAlike_whileLoading (answersAlike_complete rfl rfl rfl)
  | txSetArg =>
    exact answersAlike_whileLoading (answersAlike_ite (answersAlike_complete rfl rfl rfl) (answersAlike_refuse rfl))
  | txPush =>
    exact answersAlike_whileLoading (answersAlike_ite (answersAlike_refuse rfl) (answersAlike_complete rfl rfl rfl))
  | txPop => exact execTxPop_answersAlike s u
  | rxPush b => exact execRxPush_answersAlike b s u
  | rxRdBuf j => exact execRxRdBuf_answersAlike j s u
  | addrCls | cfgGet => exact answersAlike_complete rfl rfl trivial
  | csClr | csAdd | csGet | txClr | txStat | txGetLen | rxClr | rxEnd | rxStat | rxGetSrc | rxGetDst | rxGetCmd
  | rxGetArg | rxGetLen | rxGetCk | rxGetCalc => exact answersAlike_complete rfl rfl rfl

/-! ### What the RX registers hold of the content bytes received -/

theorem byteAt_concat (d : List Byte) (x : Byte) (i : Nat) :
    byteAt (d ++ [x]) i = if i = d.length then x else byteAt d i := by
  obtain hlt | rfl | hgt := lt_trichotomy i d.length
  · rw [byteAt_append_left hlt, if_neg hlt.ne]
  · rw [byteAt_append_right le_rfl, Nat.sub_self, if_pos rfl]
    rfl
  · rw [byteAt_of_length_le (by simpa using hgt), byteAt_of_length_le hgt.le, if_neg hgt.ne']

/-- R57, R110: the argument in the bytes of a content, as far as they have arrived. -/
def wireArgument (c : Config) (d : List Byte) : Half := (contentPacket c d).argument

theorem wireArgument_one {c : Config} (h : c.argBytes = .one) (d : List Byte) :
    wireArgument c d = zext (byteAt d 3) := by
  simp [wireArgument, contentPacket, h]

theorem wireArgument_two {c : Config} (h : c.argBytes = .two) (d : List Byte) :
    wireArgument c d = joinBytes (byteAt d 4) (byteAt d 3) := by
  simp [wireArgument, contentPacket, h]

theorem joinBytes_zero (b : Byte) : joinBytes 0 b = zext b := by
  apply BitVec.eq_of_toNat_eq
  rw [joinBytes_toNat, zext_toNat]
  simp

/-- Before its first byte the argument is 0. -/
theorem wireArgument_short {c : Config} {d : List Byte} (h : d.length ≤ 3) : wireArgument c d = 0 := by
  have h3 := byteAt_of_length_le h
  have h4 := byteAt_of_length_le (b := d) (i := 4) (by omega)
  cases ha : c.argBytes with
  | one => rw [wireArgument_one ha, h3]; rfl
  | two => rw [wireArgument_two ha, h3, h4]; rfl

/-- The low byte of the argument arrives. -/
theorem wireArgument_concat_low {c : Config} {d : List Byte} (h : d.length = 3) (x : Byte) :
    wireArgument c (d ++ [x]) = zext x := by
  have h4 := byteAt_of_length_le (b := d) (i := 4) (by omega)
  cases ha : c.argBytes with
  | one => simp [wireArgument_one ha, byteAt_concat, h]
  | two => rw [wireArgument_two ha, byteAt_concat, byteAt_concat, if_neg (by omega), if_pos h.symm, h4, joinBytes_zero]

/-- The high byte of the argument arrives. -/
theorem wireArgument_concat_high {c : Config} {d : List Byte} (ha : c.argBytes = .two) (h : d.length = 4) (x : Byte) :
    wireArgument c (d ++ [x]) = joinBytes x (lowByte (wireArgument c d)) := by
  simp [wireArgument_two ha, byteAt_concat, h]

/-- Once the argument is complete, what follows does not change it. -/
theorem wireArgument_append {c : Config} {d : List Byte} (h : 3 + c.argBytes.toNat ≤ d.length) (e : List Byte) :
    wireArgument c (d ++ e) = wireArgument c d := by
  obtain ⟨ha, hn⟩ | ⟨ha, hn⟩ := c.argBytes.toNat_one_or_two
  · rw [wireArgument_one ha, wireArgument_one ha, byteAt_append_left (by omega)]
  · rw [wireArgument_two ha, wireArgument_two ha, byteAt_append_left (by omega), byteAt_append_left (by omega)]

/-- R23, R24, R28, R30: the registers and the buffer hold the content bytes `d`; a byte that has not arrived is 0. -/
structure Holds (c : Config) (r : RxUnit) (d : List Byte) : Prop where
  src : r.src = byteAt d 0
  dst : r.dst = byteAt d 1
  cmd : r.cmd = byteAt d 2
  arg : r.arg = wireArgument c d
  len : r.len = declaredLength c d
  acc : r.acc = d.foldl accAdd 0
  buf : r.buf.slice (d.length - c.headerLen) = d.drop c.headerLen

/-- R115: after `RX_CLR` nothing has arrived, whatever the buffer holds. -/
theorem holds_rearm (c : Config) (r : RxUnit) : Holds c r.rearm [] where
  src := rfl
  dst := rfl
  cmd := rfl
  arg := (wireArgument_short (Nat.zero_le _)).symm
  len := rfl
  acc := rfl
  buf := by simp [Memory.slice_zero]

/-- R127: the registers hold the Packet of a content that has arrived whole. -/
theorem Holds.packet {c : Config} {r : RxUnit} {d : List Byte} (h : Holds c r d)
    (hlen : d.length = c.contentLen r.len.toNat) : r.packet = contentPacket c d := by
  have hpayload : r.buf.slice r.len.toNat = d.drop c.headerLen := by
    rw [← h.buf, hlen, Config.contentLen_eq, Nat.add_sub_cancel_left]
  rw [RxUnit.packet, h.src, h.dst, h.cmd, h.arg, hpayload]
  rfl

/-- R126, R82: the computed checksum is that of the content. -/
theorem Holds.accChecksum_eq {c : Config} {r : RxUnit} {d : List Byte} (h : Holds c r d) :
    accChecksum r.acc = checksum16 d := by
  rw [h.acc, accChecksum_foldl]

/-- A header byte: no payload byte is held yet. -/
theorem Holds.header_byte {c : Config} {r r' : RxUnit} {d : List Byte} {x : Byte} (h : Holds c r d)
    (hle : d.length + 1 ≤ c.headerLen) (hacc : r'.acc = accAdd r.acc x) (src : r'.src = byteAt (d ++ [x]) 0)
    (dst : r'.dst = byteAt (d ++ [x]) 1) (cmd : r'.cmd = byteAt (d ++ [x]) 2)
    (arg : r'.arg = wireArgument c (d ++ [x])) (len : r'.len = declaredLength c (d ++ [x])) : Holds c r' (d ++ [x]) :=
  have hlength : (d ++ [x]).length ≤ c.headerLen := by simpa using hle
  { src, dst, cmd, arg, len
    acc := by rw [hacc, h.acc, List.foldl_concat]
    buf := by rw [Nat.sub_eq_zero_of_le hlength, Memory.slice_zero, List.drop_eq_nil_of_le hlength] }

/-- A header byte before `payload_len` leaves the length at 0. -/
theorem declaredLength_concat_short {c : Config} {d : List Byte} {x : Byte} (h : d.length + 1 < c.headerLen) :
    declaredLength c (d ++ [x]) = declaredLength c d := by
  rw [declaredLength_of_short (by simpa using h), declaredLength_of_short (by omega)]

/-- R116: `payload_len` is taken by its register, oversize or not. -/
theorem Holds.push_len {c : Config} {r : RxUnit} {d : List Byte} (h : Holds c r d)
    (hq : d.length = 3 + c.argBytes.toNat) (x : Byte) : Holds c (r.push c .len x) (d ++ [x]) := by
  have hH := c.headerLen_eq
  have hbyte {i : Nat} (hi : i < 3 + c.argBytes.toNat) : byteAt (d ++ [x]) i = byteAt d i :=
    byteAt_append_left (by omega)
  have hlen : x = declaredLength c (d ++ [x]) := by rw [declaredLength, byteAt_concat, if_pos (by omega)]
  have htaken : Holds c { r with len := x, acc := accAdd r.acc x, pos := r.pos + 1 } (d ++ [x]) :=
    h.header_byte (by omega) rfl (by rw [hbyte (by omega)]; exact h.src) (by rw [hbyte (by omega)]; exact h.dst)
      (by rw [hbyte (by omega)]; exact h.cmd) (by rw [wireArgument_append hq.ge]; exact h.arg) hlen
  rw [RxUnit.push_len]
  split_ifs
  · exact { htaken with }
  · exact htaken

/-- R54, R116: a payload byte goes to the first index after those received. -/
theorem Holds.push_payload {c : Config} {r : RxUnit} {d : List Byte} (h : Holds c r d) (hpos : r.pos.toNat = d.length)
    (hle : c.headerLen ≤ d.length) (hlt : d.length < c.contentLen r.len.toNat) (x : Byte) :
    Holds c (r.push c .payload x) (d ++ [x]) := by
  have hH := c.headerLen_eq
  have hbyte {i : Nat} (hi : i < c.headerLen) : byteAt (d ++ [x]) i = byteAt d i := byteAt_append_left (by omega)
  refine ⟨?_, ?_, ?_, ?_, ?_, ?_, ?_⟩
  · rw [hbyte (by omega)]; exact h.src
  · rw [hbyte (by omega)]; exact h.dst
  · rw [hbyte (by omega)]; exact h.cmd
  · rw [wireArgument_append (by omega)]; exact h.arg
  · rw [declaredLength_append hle]; exact h.len
  · rw [List.foldl_concat, ← h.acc]
    rfl
  · have hindex : (bufIndex c r.pos.toNat).toNat = d.length - c.headerLen :=
      (bufIndex_toNat (hpos ▸ hlt)).trans (by rw [hpos])
    rw [List.length_append, List.length_singleton, Nat.sub_add_comm hle, List.drop_append_of_le_length hle, ← h.buf]
    show Memory.slice (Memory.writeAt r.buf (bufIndex c r.pos.toNat).toNat x) _ = _
    rw [hindex, Memory.slice_writeAt]

/-- R116: one more content byte, phase by phase. -/
theorem Holds.push {c : Config} {r : RxUnit} {d : List Byte} {ph : RxPhase} (h : Holds c r d)
    (hpos : r.pos.toNat = d.length) (hlt : d.length < c.contentLen r.len.toNat) (hat : ph.At c r.len d.length)
    (x : Byte) : Holds c (r.push c ph x) (d ++ [x]) := by
  have hH := c.headerLen_eq
  have hA := c.argBytes.toNat_one_or_two
  cases ph with
  | src | dst | cmd =>
    simp only [RxPhase.At] at hat
    refine h.header_byte (by omega) rfl ?_ ?_ ?_
      (h.arg.trans (by rw [wireArgument_short (by omega), wireArgument_short (by simp; omega)]))
      (h.len.trans (declaredLength_concat_short (by omega)).symm)
    all_goals simp [RxUnit.push_src, RxUnit.push_dst, RxUnit.push_cmd, byteAt_concat, hat, h.src, h.dst, h.cmd]
  | arg0 =>
    change d.length = 3 at hat
    exact h.header_byte (by omega) rfl (by simp [RxUnit.push_arg0, byteAt_concat, hat, h.src])
      (by simp [RxUnit.push_arg0, byteAt_concat, hat, h.dst]) (by simp [RxUnit.push_arg0, byteAt_concat, hat, h.cmd])
      (wireArgument_concat_low hat x).symm (h.len.trans (declaredLength_concat_short (by omega)).symm)
  | arg1 =>
    obtain ⟨hat, htwo⟩ := hat
    have hn : c.argBytes.toNat = 2 := htwo ▸ rfl
    exact h.header_byte (by omega) rfl (by simp [RxUnit.push_arg1, byteAt_concat, hat, h.src])
      (by simp [RxUnit.push_arg1, byteAt_concat, hat, h.dst]) (by simp [RxUnit.push_arg1, byteAt_concat, hat, h.cmd])
      (by rw [wireArgument_concat_high htwo hat, ← h.arg]; rfl)
      (h.len.trans (declaredLength_concat_short (by omega)).symm)
  | len => exact h.push_len hat x
  | payload => exact h.push_payload hpos hat.1 hlt x
  | ck0 | ck1 =>
    simp only [RxPhase.At] at hat
    omega

/-! ### The unit after `RX_CLR` and the bytes of a sequence -/

/-- What the unit is after `RX_CLR` and the bytes `b`: inside the content, after the low checksum byte, after the
frame, or after an oversize length byte (R116, R136). -/
inductive Fed (c : Config) (r : RxUnit) : List Byte → Prop
  | content {d : List Byte} (hrecv : r.state = .recv) (hpos : r.pos.toNat = d.length) (hholds : Holds c r d)
      (hmax : r.len ≤ c.payloadMax) (hle : d.length ≤ c.contentLen r.len.toNat) : Fed c r d
  | checksum {d : List Byte} (lo : Byte) (hrecv : r.state = .recv) (hpos : r.pos.toNat = d.length + 1)
      (hholds : Holds c r d) (hmax : r.len ≤ c.payloadMax) (hlen : d.length = c.contentLen r.len.toNat)
      (hck : r.ck = zext lo) : Fed c r (d ++ [lo])
  | complete {d : List Byte} (lo hi : Byte) (tail : List Byte) (hpos : r.pos.toNat = d.length + 2)
      (hholds : Holds c r d) (hmax : r.len ≤ c.payloadMax) (hlen : d.length = c.contentLen r.len.toNat)
      (hck : r.ck = joinBytes hi lo)
      (hend : checksum16 d = joinBytes hi lo ∧ r.state = .done ∨
        checksum16 d ≠ joinBytes hi lo ∧ r.state = .err ∧ r.err = .checksum) : Fed c r (d ++ lo :: hi :: tail)
  | oversize {d : List Byte} (tail : List Byte) (hpos : r.pos.toNat = d.length) (hlen : d.length = c.headerLen)
      (hover : c.payloadMax < declaredLength c d) (hstate : r.state = .err) (herr : r.err = .framing) :
      Fed c r (d ++ tail)

theorem fed_rearm (c : Config) (r : RxUnit) : Fed c r.rearm [] :=
  .content rfl rfl (holds_rearm c r) (zero_le_payloadMax c) (Nat.zero_le _)

/-- R116: `payload_len` inside its limit leaves the unit in the content, an oversize one ends the frame. -/
theorem fed_push_len {c : Config} {r : RxUnit} {d : List Byte} {x : Byte} (hrecv : r.state = .recv)
    (hpos : (r.pos + 1).toNat = d.length + 1) (hlen : d.length + 1 = c.headerLen)
    (hholds : Holds c (r.push c .len x) (d ++ [x])) : Fed c (r.push c .len x) (d ++ [x]) := by
  have hlength : (d ++ [x]).length = d.length + 1 := by simp
  by_cases hover : c.payloadMax < x
  · have hbyte : x = declaredLength c (d ++ [x]) := by rw [declaredLength, byteAt_concat, if_pos (by omega)]
    rw [RxUnit.push_len, if_pos hover, ← List.append_nil (d ++ [x])]
    exact .oversize [] (hpos.trans hlength.symm) (hlength.trans hlen) (hbyte ▸ hover) rfl rfl
  · rw [RxUnit.push_len, if_neg hover] at hholds ⊢
    refine .content hrecv (hpos.trans hlength.symm) hholds (BitVec.not_lt.1 hover) ?_
    have := c.contentLen_eq x.toNat
    show (d ++ [x]).length ≤ c.contentLen x.toNat
    omega

/-- R116: in `RECV` the next byte has a phase, and the unit goes on as `Fed` says. -/
theorem Fed.push {c : Config} {r : RxUnit} {b : List Byte} (h : Fed c r b) (hrecv : r.state = .recv) (x : Byte) :
    r.pos.toNat = b.length ∧ (r.pos + 1).toNat = b.length + 1 ∧
      ∃ ph, ph.At c r.len r.pos.toNat ∧ Fed c (r.push c ph x) (b ++ [x]) := by
  have hH := c.headerLen_eq
  cases h with
  | content _ hpos hholds hmax hle =>
    have hsucc := pos_succ_toNat (c := c) (p := r.pos) (n := r.len) (by omega)
    refine ⟨hpos, hsucc.trans (by rw [hpos]), ?_⟩
    rcases hle.lt_or_eq with hlt | heq
    · obtain ⟨ph, hph⟩ := rxPhase_isSome (c := c) (n := r.len) (q := r.pos.toNat) (by omega)
      have hat := rxPhase_at hph
      have hnext := hholds.push hpos hlt (hpos ▸ hat) x
      refine ⟨ph, hat, ?_⟩
      cases ph with
      | src | dst | cmd | arg0 | arg1 | payload =>
        refine .content hrecv (hsucc.trans (by rw [hpos, List.length_append]; rfl)) hnext hmax ?_
        rw [List.length_append]
        exact hlt
      | len =>
        simp only [RxPhase.At] at hat
        exact fed_push_len hrecv (by rw [hsucc, hpos]) (by omega) hnext
      | ck0 | ck1 =>
        simp only [RxPhase.At] at hat
        omega
    · exact ⟨.ck0, hpos.trans heq, .checksum x hrecv (hsucc.trans (by rw [hpos])) { hholds with } hmax heq rfl⟩
  | @checksum d lo _ hpos hholds hmax hlen hck =>
    have hsucc := pos_succ_toNat (c := c) (p := r.pos) (n := r.len) (by omega)
    have hpos' : r.pos.toNat = (d ++ [lo]).length := by simpa using hpos
    refine ⟨hpos', hsucc.trans (by rw [hpos']), .ck1, hpos.trans (by rw [hlen]), ?_⟩
    have hjoin : joinBytes x (lowByte r.ck) = joinBytes x lo := by rw [hck, lowByte_zext]
    rw [List.append_assoc, RxUnit.push_ck1, hjoin, hholds.accChecksum_eq]
    split_ifs with heq
    · exact .complete lo x [] (hsucc.trans (by rw [hpos])) { hholds with } hmax hlen rfl (.inl ⟨heq.symm, rfl⟩)
    · exact .complete lo x [] (hsucc.trans (by rw [hpos])) { hholds with } hmax hlen rfl
        (.inr ⟨Ne.symm heq, rfl, rfl⟩)
  | complete lo hi tail _ _ _ _ _ hend => simp [hrecv] at hend
  | oversize tail _ _ _ hstate => simp [hrecv] at hstate

/-- R113, R128: once the frame has ended, a further byte belongs to what follows it. -/
theorem Fed.concat_of_terminal {c : Config} {r : RxUnit} {b : List Byte} (h : Fed c r b) (hne : r.state ≠ .recv)
    (x : Byte) : Fed c r (b ++ [x]) := by
  cases h with
  | content hrecv | checksum _ hrecv => exact absurd hrecv hne
  | complete lo hi tail hpos hholds hmax hlen hck hend =>
    rw [List.append_assoc]
    exact .complete lo hi (tail ++ [x]) hpos hholds hmax hlen hck hend
  | oversize tail hpos hlen hover hstate herr =>
    rw [List.append_assoc]
    exact .oversize (tail ++ [x]) hpos hlen hover hstate herr

/-! ### How far a sequence brings the unit -/

theorem acceptedLength_of_open {c : Config} {b : List Byte} (hmax : declaredLength c b ≤ c.payloadMax)
    (hlen : b.length < c.frameLen (declaredLength c b).toNat) : acceptedLength c b = b.length := by
  rw [acceptedLength]
  split_ifs with hheader
  · exact Nat.min_eq_left hlen.le
  · exact Nat.min_eq_left (Nat.le_of_not_le fun hle => hheader ⟨hle, hmax⟩)

theorem acceptedLength_of_complete {c : Config} {b : List Byte} (h : FrameComplete c b) :
    acceptedLength c b = c.frameLen (declaredLength c b).toNat := by
  obtain ⟨hmax, hlen⟩ := h
  have hC := c.contentLen_eq (declaredLength c b).toNat
  have hF := c.frameLen_eq (declaredLength c b).toNat
  rw [acceptedLength, if_pos ⟨by omega, hmax⟩]
  exact Nat.min_eq_right hlen

theorem acceptedLength_of_oversize {c : Config} {b : List Byte} (hlen : c.headerLen ≤ b.length)
    (hover : c.payloadMax < declaredLength c b) : acceptedLength c b = c.headerLen := by
  rw [acceptedLength, if_neg fun hheader => BitVec.not_le.2 hover hheader.2]
  exact Nat.min_eq_right hlen

/-- R137: the unit is inside a frame, at the end of one, or at an oversize length byte, and its position counts the
bytes of the frame. -/
theorem Fed.progress {c : Config} {r : RxUnit} {b : List Byte} (h : Fed c r b) :
    r.state = .recv ∧ declaredLength c b ≤ c.payloadMax ∧ b.length < c.frameLen (declaredLength c b).toNat ∧
        r.pos.toNat = b.length ∨
      (r.state = .done ∨ r.state = .err ∧ r.err = .checksum) ∧ FrameComplete c b ∧
        r.pos.toNat = c.frameLen (declaredLength c b).toNat ∨
      r.state = .err ∧ r.err = .framing ∧ c.headerLen ≤ b.length ∧ c.payloadMax < declaredLength c b ∧
        r.pos.toNat = c.headerLen := by
  have hC := c.contentLen_eq r.len.toNat
  have hF := c.frameLen_eq r.len.toNat
  cases h with
  | content hrecv hpos hholds hmax hle =>
    rw [← hholds.len]
    exact .inl ⟨hrecv, hmax, by omega, hpos⟩
  | checksum lo hrecv hpos hholds hmax hlen =>
    rw [declaredLength_append (by omega), ← hholds.len, List.length_append, List.length_singleton]
    exact .inl ⟨hrecv, hmax, by omega, hpos⟩
  | complete lo hi tail hpos hholds hmax hlen hck hend =>
    rw [FrameComplete, declaredLength_append (by omega), ← hholds.len, List.length_append, List.length_cons,
      List.length_cons]
    exact .inr (.inl ⟨hend.imp And.right And.right, ⟨hmax, by omega⟩, by omega⟩)
  | oversize tail hpos hlen hover hstate herr =>
    rw [declaredLength_append hlen.ge, List.length_append]
    exact .inr (.inr ⟨hstate, herr, by omega, hover, hpos.trans hlen⟩)

section
variable {c : Config} {r : RxUnit} {b : List Byte} (h : Fed c r b)
include h

/-- R137: `RX_POS` is the number of bytes of the frame. -/
theorem Fed.pos_eq : r.pos.toNat = acceptedLength c b := by
  obtain ⟨-, hmax, hlen, hpos⟩ | ⟨-, hcomplete, hpos⟩ | ⟨-, -, hlen, hover, hpos⟩ := h.progress
  · rw [hpos, acceptedLength_of_open hmax hlen]
  · rw [hpos, acceptedLength_of_complete hcomplete]
  · rw [hpos, acceptedLength_of_oversize hlen hover]

/-- R137: the unit is still receiving exactly when the frame is not complete and its length is in order. -/
theorem Fed.recv_iff :
    r.state = .recv ↔ b.length < c.headerLen ∨
      declaredLength c b ≤ c.payloadMax ∧ b.length < c.frameLen (declaredLength c b).toNat := by
  have hC := c.contentLen_eq (declaredLength c b).toNat
  have hF := c.frameLen_eq (declaredLength c b).toNat
  obtain ⟨hrecv, hmax, hlen, -⟩ | ⟨hstate, ⟨-, hlen⟩, -⟩ | ⟨hstate, -, hlen, hover, -⟩ := h.progress
  · exact iff_of_true hrecv (.inr ⟨hmax, hlen⟩)
  · have hne : r.state ≠ .recv := by rcases hstate with hs | hs <;> simp [hs]
    exact iff_of_false hne (by omega)
  · exact iff_of_false (by simp [hstate]) (not_or.2 ⟨hlen.not_gt, fun hopen => BitVec.not_le.2 hover hopen.1⟩)

/-- R137: `DONE` and `ERR/CHECKSUM` are reached exactly by a complete frame. -/
theorem Fed.ended_iff : r.state = .done ∨ r.state = .err ∧ r.err = .checksum ↔ FrameComplete c b := by
  obtain ⟨hrecv, -, hlen, -⟩ | ⟨hstate, hcomplete, -⟩ | ⟨hstate, herr, -, hover, -⟩ := h.progress
  · exact iff_of_false (by simp [hrecv]) fun hcomplete => hlen.not_ge hcomplete.2
  · exact iff_of_true hstate hcomplete
  · exact iff_of_false (by simp [hstate, herr]) fun hcomplete => BitVec.not_le.2 hover hcomplete.1

/-- R137: `ERR/FRAMING` is reached exactly by an oversize length byte. -/
theorem Fed.framing_iff :
    r.state = .err ∧ r.err = .framing ↔ c.headerLen ≤ b.length ∧ c.payloadMax < declaredLength c b := by
  obtain ⟨hrecv, hmax, -⟩ | ⟨hstate, ⟨hmax, -⟩, -⟩ | ⟨hstate, herr, hlen, hover, -⟩ := h.progress
  · exact iff_of_false (by simp [hrecv]) fun hbad => BitVec.not_le.2 hbad.2 hmax
  · refine iff_of_false (fun herr => ?_) fun hbad => BitVec.not_le.2 hbad.2 hmax
    simp [herr] at hstate
  · exact iff_of_true ⟨hstate, herr⟩ ⟨hlen, hover⟩

/-- R136: what `RX_END` leaves is what `Decode` says. -/
theorem Fed.decode :
    decodeFrame c b = .ok r.finish.packet ∧ r.finish.state = .done ∧
        r.finish.pos.toNat = c.frameLen r.finish.len.toNat ∧
        r.finish.ck = checksum16 (b.take (c.contentLen r.finish.len.toNat)) ∨
      decodeFrame c b = .error .checksum ∧ r.finish.state = .err ∧ r.finish.err = .checksum ∨
      decodeFrame c b = .error .framing ∧ r.finish.state = .err ∧ r.finish.err = .framing := by
  obtain ⟨hrecv, -, hlen, -⟩ | ⟨hstate, -⟩ | ⟨hstate, herr, -, hover, -⟩ := h.progress
  · have hdecode : decodeFrame c b = .error .framing :=
      decodeFrame_of_not_complete fun hcomplete => hlen.not_ge hcomplete.2
    rw [RxUnit.finish_recv hrecv]
    exact .inr (.inr ⟨hdecode, rfl, rfl⟩)
  · have hne : r.state ≠ .recv := by rcases hstate with hs | hs <;> simp [hs]
    rw [RxUnit.finish_terminal hne]
    cases h with
    | content hrecv | checksum _ hrecv => exact absurd hrecv hne
    | oversize _ _ _ _ herr herr' => simp [herr, herr'] at hstate
    | complete lo hi tail hpos hholds hmax hlen hck hend =>
      have hdecode := decodeFrame_content_append hlen hholds.len.symm hmax lo hi tail
      obtain ⟨heq, hdone⟩ | ⟨hneq, herr⟩ := hend
      · rw [if_pos heq, ← hholds.packet hlen] at hdecode
        refine .inl ⟨hdecode, hdone, hpos.trans (by rw [hlen, Config.frameLen_eq]), ?_⟩
        rw [hck, ← hlen, List.take_left, heq]
      · rw [if_neg hneq] at hdecode
        exact .inr (.inl ⟨hdecode, herr⟩)
  · have hdecode : decodeFrame c b = .error .framing :=
      decodeFrame_of_not_complete fun hcomplete => BitVec.not_le.2 hover hcomplete.1
    rw [RxUnit.finish_terminal (by simp [hstate])]
    exact .inr (.inr ⟨hdecode, hstate, herr⟩)

/-- R136 (a) to (c): the result of `Decode` read off the unit after `RX_END`. -/
theorem Fed.decode_iff :
    (∀ p : Packet, decodeFrame c b = .ok p ↔ r.finish.state = .done ∧ r.finish.packet = p) ∧
    (decodeFrame c b = .error .checksum ↔ r.finish.state = .err ∧ r.finish.err = .checksum) ∧
    (decodeFrame c b = .error .framing ↔ r.finish.state = .err ∧ r.finish.err = .framing) ∧
    (r.finish.state = .done → r.finish.pos.toNat = c.frameLen r.finish.len.toNat ∧
      r.finish.ck = checksum16 (b.take (c.contentLen r.finish.len.toNat))) := by
  obtain ⟨hdecode, hstate, hpos, hck⟩ | ⟨hdecode, hstate, herr⟩ | ⟨hdecode, hstate, herr⟩ := h.decode
  · simp [hdecode, hstate, hpos, hck]
  · simp [hdecode, hstate, herr]
  · simp [hdecode, hstate, herr]

end

/-! ### Running `RX_CLR` and the bytes of a sequence -/

/-- The responses to the bytes `b`: `OK` to those of the frame, `BAD_STATE` to every later one (R136). -/
def PushResponses (c : Config) (b : List Byte) (rs : List RspWord) : Prop :=
  ∃ accepted : List Half, accepted.length = acceptedLength c b ∧
    rs = accepted.map (rspWord .ok) ++ List.replicate (b.length - acceptedLength c b) (rspWord .badState 0)

/-- A byte accepted: so were all before it. -/
theorem PushResponses.accept {c : Config} {b : List Byte} {rs : List RspWord} {x : Byte} (h : PushResponses c b rs)
    (hall : acceptedLength c b = b.length) (hnext : acceptedLength c (b ++ [x]) = b.length + 1) (data : Half) :
    PushResponses c (b ++ [x]) (rs ++ [rspWord .ok data]) := by
  obtain ⟨accepted, hlen, rfl⟩ := h
  exact ⟨accepted ++ [data], by simp [hlen, hall, hnext], by simp [hall, hnext]⟩

/-- A byte refused: the frame is as long as before. -/
theorem PushResponses.refuse {c : Config} {b : List Byte} {rs : List RspWord} {x : Byte} (h : PushResponses c b rs)
    (hle : acceptedLength c b ≤ b.length) (hnext : acceptedLength c (b ++ [x]) = acceptedLength c b) :
    PushResponses c (b ++ [x]) (rs ++ [rspWord .badState 0]) := by
  obtain ⟨accepted, hlen, rfl⟩ := h
  refine ⟨accepted, hlen.trans hnext.symm, ?_⟩
  rw [hnext, List.length_append, List.length_singleton, Nat.sub_add_comm hle, List.replicate_succ', List.append_assoc]

theorem acceptedLength_le (c : Config) (b : List Byte) : acceptedLength c b ≤ b.length := by
  rw [acceptedLength]
  split_ifs
  · exact Nat.min_le_left ..
  · exact Nat.min_le_left ..

/-- R116, R128: one `RX_PUSH`, taken or refused. -/
theorem execRxPush_fed {s : State} {b : List Byte} {rs : List RspWord} (h : Fed s.cfg s.rx b)
    (hrs : PushResponses s.cfg b rs) (x : Byte) :
    ∃ r w, execRxPush x s = .next { s with rx := r, responses := s.responses ++ [w] } ∧
      Fed s.cfg r (b ++ [x]) ∧ PushResponses s.cfg (b ++ [x]) (rs ++ [w]) := by
  by_cases hrecv : s.rx.state = .recv
  · obtain ⟨hpos, hsucc, ph, hat, hnext⟩ := h.push hrecv x
    exact ⟨_, _, execRxPush_recv hrecv hat x, hnext,
      hrs.accept (h.pos_eq.symm.trans hpos) (hnext.pos_eq.symm.trans hsucc) _⟩
  · have hnext := h.concat_of_terminal hrecv x
    exact ⟨_, _, execRxPush_refused hrecv x, hnext,
      hrs.refuse (acceptedLength_le ..) (hnext.pos_eq.symm.trans h.pos_eq)⟩

/-- R136, R137: the bytes `e` after the bytes `d`, one by one. -/
theorem run_rxPush (e : List Byte) {s : State} {d : List Byte} {rs : List RspWord} (h : Fed s.cfg s.rx d)
    (hrs : PushResponses s.cfg d rs) (rest : List PortEvent) (k : Nat) :
    ∃ r rs', Sys2Proof.core.run (e.length + k) { s with pending := commands (e.map .rxPush) ++ rest } =
        Sys2Proof.core.run k { s with rx := r, pending := rest, responses := s.responses ++ rs' } ∧
      Fed s.cfg r (d ++ e) ∧ PushResponses s.cfg (d ++ e) (rs ++ rs') := by
  induction e generalizing s d rs with
  | nil => exact ⟨s.rx, [], by simp [commands], by simpa using h, by simpa using hrs⟩
  | cons x e ih =>
    obtain ⟨r, w, hexec, hr, hw⟩ :=
      execRxPush_fed (s := { s with pending := commands (e.map .rxPush) ++ rest }) h hrs x
    obtain ⟨r', rs', hrun, hr', hrs'⟩ := ih (s := { s with rx := r, responses := s.responses ++ [w] }) hr hw
    refine ⟨r', w :: rs', ?_, by simpa using hr', by simpa using hrs'⟩
    rw [List.length_cons, Nat.add_right_comm]
    refine (run_command (i := .rxPush x) hexec (e.length + k)).trans (hrun.trans ?_)
    rw [List.append_assoc]
    rfl

/-- R136, R137: `RX_CLR` and the bytes `b`, from any state. -/
theorem run_rxClr_rxPush (s : State) (b : List Byte) (rest : List PortEvent) (k : Nat) :
    ∃ r rs, Sys2Proof.core.run (b.length + k + 1)
          { s with pending := commands (.rxClr :: b.map .rxPush) ++ rest } =
        Sys2Proof.core.run k { s with rx := r, pending := rest, responses := s.responses ++ [rspWord .ok 0] ++ rs } ∧
      Fed s.cfg r b ∧ PushResponses s.cfg b rs := by
  have hstart : PushResponses s.cfg [] [] := ⟨[], by simp [acceptedLength], by simp⟩
  obtain ⟨r, rs, hrun, hr, hrs⟩ := run_rxPush b
    (s := { s with rx := s.rx.rearm, responses := s.responses ++ [rspWord .ok 0] }) (fed_rearm s.cfg s.rx) hstart rest k
  exact ⟨r, rs, (run_command (i := .rxClr) (s := s) (rest := commands (b.map .rxPush) ++ rest) rfl _).trans hrun,
    hr, hrs⟩

/-! ### The obligations -/

/-- Settles O45: `RX_CLR` and the bytes leave the unit as `Fed` says (`run_rxClr_rxPush`), and what `RX_END` makes of
it is what `Decode` says (`Fed.decode_iff`). -/
theorem feedingAgreesWithDecode : Obligations.FeedingAgreesWithDecode := by
  intro s b
  obtain ⟨r, rs, hrun, hfed, accepted, haccepted, hrs⟩ := run_rxClr_rxPush s b (commands [.rxEnd]) 1
  have hend := run_command (i := .rxEnd) (rest := [])
    (s := { s with rx := r, responses := s.responses ++ [rspWord .ok 0] ++ rs }) rfl 0
  have hpending : commands (.rxClr :: b.map .rxPush) ++ commands [.rxEnd] = commands (rxFeed b) :=
    List.map_append.symm
  rw [hpending] at hrun
  obtain ⟨hok, hchecksum, hframing, hdone⟩ := hfed.decode_iff
  refine ⟨_, hrun.trans hend, rfl, rfl, rfl, rfl, hok, hchecksum, hframing, hdone, accepted, haccepted, ?_⟩
  rw [State.respond_responses, hrs, ← List.append_assoc]
  rfl

/-- Settles O46: the unit that `run_rxClr_rxPush` leaves, by its state. -/
theorem frameEndsExactlyAtItsLastByte : Obligations.FrameEndsExactlyAtItsLastByte := by
  intro s b
  obtain ⟨r, rs, hrun, hfed, -⟩ := run_rxClr_rxPush s b [] 0
  rw [List.append_nil] at hrun
  exact ⟨_, hrun, hfed.pos_eq, hfed.recv_iff, hfed.ended_iff, hfed.framing_iff⟩

/-- Settles O50: the changes of an operation are in its own unit (`exec_changes`), and a second state that agrees on
that unit answers alike. -/
theorem unitsShareNothing : Obligations.UnitsShareNothing := by
  refine ⟨fun i s t ht => ?_, fun i s u t hcfg hcs htx hrx ht => ?_⟩
  · have h := exec_changes ht
    exact ⟨h.cs.eq_of_opUnit, h.tx.eq_of_opUnit, h.rx.eq_of_opUnit⟩
  · have hu : u.withUnit (opUnit i) s = u := withUnit_of_sameUnit hcfg (sameUnit_iff.2 ⟨hcs, htx, hrx⟩)
    obtain ⟨v, r, hv, htr, hvr, hunit⟩ := hu ▸ exec_answersAlike i s u t ht
    exact ⟨v, r, hv, htr, hvr, sameUnit_iff.1 hunit⟩

/-- Settles O58: the frame is one the receiver would send (`encodeFrame_receiver`); and a sequence that is no framing
error holds a complete frame. -/
theorem decodeInvertsEncode : Obligations.DecodeInvertsEncode :=
  ⟨fun _ _ _ _ tail hf harg hmax => decodeFrame_encode_append (encodeFrame_receiver hf harg hmax) tail,
    fun _ _ tail hne => decodeFrame_append (by_contra fun h => hne (decodeFrame_of_not_complete h)) tail⟩

/-- Settles O59: the two errors by `FrameComplete`, whose clauses are those of the structure. -/
theorem decodeChecksStructureFirst : Obligations.DecodeChecksStructureFirst := by
  rintro c b n hn
  have hcomplete : FrameComplete c b ↔ n ≤ c.payloadMax.toNat ∧ c.headerLen + n + 2 ≤ b.length := by rw [hn]; rfl
  constructor
  · rw [decodeFrame_eq_framing_iff, hcomplete]
    omega
  · rw [decodeFrame_eq_checksum_iff, hcomplete, receivedChecksum, Ne, ← BitVec.toNat_inj, joinBytes_toNat,
      Nat.add_comm (256 * _), and_comm (a := n ≤ _), and_assoc, hn]
    rfl

/-- Settles O43: of the changes to the RX unit (`exec_changes`), a byte and a truncation need `RECV`. -/
theorem resultIsHeldUntilCleared : Obligations.ResultIsHeldUntilCleared := by
  intro s hne
  refine ⟨fun i t hi ht => ?_, fun b => execRxPush_refused hne b⟩
  obtain ⟨-, -, -, -, hrx⟩ := exec_changes ht
  generalize t.rx = r at hrx
  cases hrx with
  | same => rfl
  | clear => exact absurd rfl hi
  | push hrecv | truncate hrecv => exact absurd hrecv hne

/-- Settles O34, by the format of the operation. -/
theorem rxClrRearmsTheDeframer : Obligations.RxClrRearmsTheDeframer :=
  ⟨issuesZ_of_format (i := .rxClr) rfl, fun _ => rfl⟩

/-- Settles O35: each row is a case of `rxPhase_eq_some_iff`, and past the frame there is none. -/
theorem rxPhaseTable : Obligations.RxPhaseTable := by
  intro c n
  have hrow {q : Nat} {ph : RxPhase} (hat : ph.At c n q) : rxPhase c n q = some ph := rxPhase_eq_some_iff.2 hat
  exact ⟨hrow rfl, hrow rfl, hrow rfl, hrow rfl, fun htwo => hrow ⟨rfl, htwo⟩, hrow rfl,
    fun q hle hlt => hrow ⟨hle, hlt⟩, hrow rfl, hrow rfl, fun q hpast => rxPhase_eq_none_iff.2 hpast⟩

/-- Settles O36: `RX_PUSH` in each header phase, with the sum and the position as numbers. -/
theorem rxPushTakesHeaderBytes : Obligations.RxPushTakesHeaderBytes := by
  refine ⟨issuesB_of_format (fun _ => rfl) (fun _ => rfl) (fun _ => rfl), fun s b u hrecv hu => ?_⟩
  rw [← accAdd_eq_ofNat, ← add_one_eq_ofNat] at hu
  subst hu
  have htake {ph : RxPhase} {v : RxUnit} (hat : ph.At s.cfg s.rx.len s.rx.pos.toNat)
      (hv : v = s.rx.push s.cfg ph b) := execRxPush_recv_eq hrecv hat hv
  refine ⟨fun hq => ?_, fun hq => ?_, fun hq => ?_, fun hq v hv => ?_, fun hq htwo v hv => ?_, fun hq v hv => ?_⟩
  · exact htake (ph := .src) (congrArg BitVec.toNat hq) rfl
  · exact htake (ph := .dst) (congrArg BitVec.toNat hq) rfl
  · exact htake (ph := .cmd) (congrArg BitVec.toNat hq) rfl
  · rw [← zext_eq_ofNat] at hv
    exact htake (ph := .arg0) (congrArg BitVec.toNat hq) hv
  · rw [← lowByte_toNat, ← joinBytes_eq_ofNat] at hv
    exact htake (ph := .arg1) ⟨congrArg BitVec.toNat hq, htwo⟩ hv
  · exact htake (ph := .len) hq (by rw [hv, RxUnit.push_len]; rfl)

/-- Settles O37: `RX_PUSH` in the payload phase, and what a read returns after a write. -/
theorem rxPushStoresPayloadBytes : Obligations.RxPushStoresPayloadBytes := by
  intro s b hrecv hle hlt
  have hindex := bufIndex_toNat (c := s.cfg) (n := s.rx.len) hlt
  refine ⟨s.rx.buf.write (bufIndex s.cfg s.rx.pos.toNat) b, _, rfl,
    execRxPush_recv_eq (ph := .payload) hrecv ⟨hle, hlt⟩ ?_, fun j => ?_⟩
  · rw [← accAdd_eq_ofNat, ← add_one_eq_ofNat]
    rfl
  · rw [Memory.read_write, ← hindex]
    simp only [BitVec.toNat_inj]

/-- Settles O38: the two checksum phases, the comparison as numbers, and the refusal. -/
theorem rxPushEndsTheFrame : Obligations.RxPushEndsTheFrame := by
  intro s b v
  rw [Ne, ← joinBytes_eq_accChecksum_iff, ← lowByte_toNat, ← joinBytes_eq_ofNat, ← add_one_eq_ofNat, ← zext_eq_ofNat]
  refine ⟨fun hrecv hq hv => ?_, fun hrecv hq heq hv => ?_, fun hrecv hq hne hv => ?_,
    fun hne => execRxPush_refused hne b⟩
  · exact execRxPush_recv_eq (ph := .ck0) hrecv hq hv
  · exact execRxPush_recv_eq (ph := .ck1) hrecv hq (by rw [RxUnit.push_ck1, if_pos heq]; exact hv)
  · exact execRxPush_recv_eq (ph := .ck1) hrecv hq (by rw [RxUnit.push_ck1, if_neg hne]; exact hv)

/-- Settles O39: `RX_END` in `RECV` and in the terminal states. -/
theorem rxEndRecordsTruncation : Obligations.RxEndRecordsTruncation := by
  refine ⟨issuesZ_of_format (i := .rxEnd) rfl, fun s => ⟨fun hrecv => ?_, fun hne => ?_⟩⟩
  · have hword : rxStatusWord (s.rx.raise .framing) = BitVec.ofNat 16 (0xA000 + s.rx.pos.toNat) :=
      eq_ofNat_of_toNat (by
        rw [rxStatusWord_toNat]
        simp only [RxUnit.raise_state, RxUnit.raise_err, RxUnit.raise_pos, rxStateNumber, rxErrNumber])
    rw [← hword, ← RxUnit.finish_recv hrecv]
    show execRxEnd s = _
    rw [execRxEnd, RxUnit.finish_recv hrecv]
    rfl
  · show execRxEnd s = _
    rw [execRxEnd, RxUnit.finish_terminal hne]
    rfl

/-- Settles O40: each read is its register, extended or as it is, or the complement of the sum. -/
theorem rxReadsReturnTheirRegister : Obligations.RxReadsReturnTheirRegister := by
  refine ⟨issuesZ_of_format (i := .rxGetSrc) rfl, issuesZ_of_format (i := .rxGetDst) rfl,
    issuesZ_of_format (i := .rxGetCmd) rfl, issuesZ_of_format (i := .rxGetArg) rfl,
    issuesZ_of_format (i := .rxGetLen) rfl, issuesZ_of_format (i := .rxGetCk) rfl,
    issuesZ_of_format (i := .rxGetCalc) rfl, fun s => ?_⟩
  simp only [← zext_eq_ofNat, ← accChecksum_eq_ofNat]
  exact ⟨rfl, rfl, rfl, rfl, rfl, rfl, rfl⟩

/-- Settles O41: the status word as a number; under `Inv` an error is recorded in `ERR` and nowhere else. -/
theorem rxStatReturnsTheStatusWord : Obligations.RxStatReturnsTheStatusWord := by
  refine ⟨issuesZ_of_format (i := .rxStat) rfl, fun s => ⟨?_, fun h => ?_⟩⟩
  · rw [← eq_ofNat_of_toNat (rxStatusWord_toNat s.rx)]
    rfl
  · have hpos := s.rx.pos.isLt
    have htop : (rxStatusWord s.rx).toNat / 4096 = 4 * rxStateNumber s.rx.state + rxErrNumber s.rx.err := by
      rw [rxStatusWord_toNat]
      omega
    rw [htop]
    cases hs : s.rx.state with
    | recv | done =>
      have hnone : s.rx.err = .none := by_contra fun hne => by simp [h.rx_err.1 hne] at hs
      simp [hnone, rxStateNumber, rxErrNumber]
    | err =>
      have hne := h.rx_err.2 hs
      cases he : s.rx.err with
      | none => exact absurd he hne
      | checksum | framing => simp [rxStateNumber, rxErrNumber]

/-- Settles O42: the two branches of `RX_RDBUF`, and R37 (h). -/
theorem rxRdBufReadsBelowTheCount : Obligations.RxRdBufReadsBelowTheCount := by
  refine ⟨issuesB_of_format (fun _ => rfl) (fun _ => rfl) (fun _ => rfl), fun s j =>
    ⟨fun hge => ?_, fun b hlt hb => ?_, fun h hlt => h.rx_filled j.toNat hlt⟩⟩
  · exact if_pos hge
  · rw [← zext_eq_ofNat]
    show execRxRdBuf j s = _
    rw [execRxRdBuf, if_neg (show ¬ s.rx.cnt s.cfg ≤ j.toNat from Nat.not_le.2 hlt), hb]
    rfl

end Sys2Proof.Machine
end

section
/-!
PROOFS. 43_system.md: the device addresses (R140, R141) and the two operations of the system family (R142, R143). A byte
is a named address or it is not (`deviceName_eq_some_iff`, `deviceName_eq_none_iff`); its class code and its text are
read off these two cases.
-/

open Sys2Proof Sys2Proof.Machine Sys2Proof.Certificates

namespace Sys2Proof.Machine

/-! ### Device addresses -/

/-- R140: the six named addresses differ, so each is found under its own name. -/
@[simp] theorem deviceName_address (n : DeviceName) : deviceName n.address = some n := by
  cases n <;> rfl

theorem deviceName_eq_some_iff {a : Byte} {n : DeviceName} : deviceName a = some n ↔ n.address = a := by
  refine ⟨fun h => ?_, fun h => h ▸ deviceName_address n⟩
  simpa using List.find?_some h

theorem deviceName_eq_none_iff {a : Byte} : deviceName a = none ↔ ∀ n : DeviceName, a ≠ n.address := by
  rw [Option.eq_none_iff_forall_ne_some]
  exact forall_congr' fun n => not_congr (deviceName_eq_some_iff.trans eq_comm)

theorem DeviceName.classCode_ne_zero (n : DeviceName) : n.classCode ≠ 0 := by
  cases n <;> decide

@[simp] theorem addrClass_address (n : DeviceName) : addrClass n.address = n.classCode := by
  rw [addrClass, deviceName_address]

theorem addrClass_of_unnamed {a : Byte} (h : deviceName a = none) : addrClass a = 0 := by
  rw [addrClass, h]

/-- R141: the class code 0 is that of the bytes without a name. -/
theorem addrClass_eq_zero_iff {a : Byte} : addrClass a = 0 ↔ deviceName a = none := by
  refine ⟨fun h => ?_, addrClass_of_unnamed⟩
  rw [deviceName_eq_none_iff]
  rintro n rfl
  exact n.classCode_ne_zero (addrClass_address n ▸ h)

theorem classOf_address (n : DeviceName) : classOf n.address = n.classCode.toNat := by
  cases n <;> rfl

theorem classOf_of_unnamed {a : Byte} (h : deviceName a = none) : classOf a = 0 := by
  have hne := deviceName_eq_none_iff.1 h
  exact (if_neg (hne .motor)).trans <| (if_neg (hne .esc)).trans <| (if_neg (hne .ble)).trans <|
    (if_neg (hne .bms)).trans <| (if_neg (hne .extbms)).trans <| if_neg (hne .host)

/-- R141: the class code by cases. -/
theorem addrClass_toNat (a : Byte) : (addrClass a).toNat = classOf a := by
  cases h : deviceName a with
  | some n =>
    obtain rfl := deviceName_eq_some_iff.1 h
    rw [addrClass_address, classOf_address]
  | none =>
    rw [addrClass_of_unnamed h, classOf_of_unnamed h]
    rfl

@[simp] theorem addrName_address (n : DeviceName) : addrName n.address = n.text := by
  rw [addrName, deviceName_address]

theorem addrName_of_unnamed {a : Byte} (h : deviceName a = none) : addrName a = String.ofList (hexByte a) := by
  rw [addrName, h]

/-- R73: the sixteen hexadecimal digits in upper case. -/
theorem hexDigits_getElem? {n : Nat} (h : n < 16) :
    ['0', '1', '2', '3', '4', '5', '6', '7', '8', '9', 'A', 'B', 'C', 'D', 'E', 'F'][n]? = some (hexDigit n) := by
  interval_cases n <;> rfl

/-! ### The CFG word -/

theorem ArgBytes.code_toNat (x : ArgBytes) : x.code.toNat = x.toNat := by
  cases x <;> rfl

/-- R35: `PAYLOAD_MAX` in bits 15:8, `ARG_BYTES` in bits 1:0. -/
theorem cfgWord_toNat (c : Config) : (cfgWord c).toNat = 256 * c.payloadMax.toNat + c.argBytes.toNat := by
  rw [cfgWord, BitVec.toNat_append, ← Nat.shiftLeft_add_eq_or_of_lt c.argBytes.code.isLt, Nat.shiftLeft_eq,
    BitVec.toNat_append, BitVec.toNat_ofNat, Nat.zero_mod, Nat.or_zero, Nat.shiftLeft_eq, ArgBytes.code_toNat]
  omega

/-! ### The obligations -/

/-- Settles O47: the class code extended to 16 bits, as a number. -/
theorem addrClsClassifiesTheOperand : Obligations.AddrClsClassifiesTheOperand := by
  refine ⟨issuesB_of_format (fun _ => rfl) (fun _ => rfl) (fun _ => rfl), fun s a => ?_⟩
  rw [← addrClass_toNat, ← zext_eq_ofNat]
  rfl

/-- Settles O48: a named address has its own text, and every other byte the digits of its two halves. -/
theorem addressNamesAndClasses : Obligations.AddressNamesAndClasses := by
  refine ⟨addrClass_toNat, addrName_address .motor, addrName_address .esc, addrName_address .ble,
    addrName_address .bms, addrName_address .extbms, addrName_address .host, fun a hzero => ?_⟩
  have hlt := a.isLt
  exact ⟨_, _, hexDigits_getElem? (by omega), hexDigits_getElem? (by omega),
    addrName_of_unnamed (addrClass_eq_zero_iff.1 hzero)⟩

/-- Settles O49: the CFG word as a number. -/
theorem cfgGetReturnsTheParameters : Obligations.CfgGetReturnsTheParameters := by
  refine ⟨issuesZ_of_format (i := .cfgGet) rfl, fun s => ?_⟩
  rw [← eq_ofNat_of_toNat (cfgWord_toNat s.cfg)]
  rfl

end Sys2Proof.Machine
end

section
/-!
PROOFS. 60_exceptions.md section 3: the causes of the refusals of an operation (R154, R155, R156). `RefusalCause` lists
them; `exec_eq_refuse_iff` says that an operation is refused for a listed cause and for no other.
-/

open Sys2Proof Sys2Proof.Machine Sys2Proof.Certificates

namespace Sys2Proof.Machine

/-! ### The status in a response -/

theorem statusNumber_injective {st st' : Status} (h : statusNumber st = statusNumber st') : st = st' := by
  cases st <;> cases st' <;> simp_all [statusNumber]

/-- R66: the status is bits 23:16 of the response word. -/
theorem status_eq_of_rspWord_eq {st st' : Status} {d d' : Half} (h : rspWord st d = rspWord st' d') : st = st' := by
  have hd := d.isLt
  have hd' := d'.isLt
  have hword := congrArg BitVec.toNat h
  rw [rspWord_toNat, rspWord_toNat] at hword
  exact statusNumber_injective (by omega)

/-- The last response tells the status. -/
theorem status_eq_of_responses_eq {l : List RspWord} {st st' : Status} {d d' : Half}
    (h : l ++ [rspWord st d] = l ++ [rspWord st' d']) : st = st' :=
  status_eq_of_rspWord_eq (List.singleton_inj.1 (List.append_cancel_left h))

/-- Two answers to one operation that agree have the same status, whatever was done to the units. -/
theorem status_eq_of_respond_eq {s : State} {csAcc : Half} {tx : TxUnit} {rx : RxUnit} {st st' : Status} {d d' : Half}
    (h : s.respond st d = State.respond { s with csAcc := csAcc, tx := tx, rx := rx } st' d') : st = st' :=
  status_eq_of_responses_eq (l := s.responses) (congrArg State.responses h)

/-- R157: a command word gets one outcome. -/
theorem status_eq_of_refuse_eq {s : State} {st st' : Status} (h : refuse st s = refuse st' s) : st = st' := by
  have hnext : s.respond st 0 = s.respond st' 0 := Host.Outcome.next.inj h
  exact status_eq_of_respond_eq hnext

/-- An operation that completes is not refused. -/
theorem complete_ne_refuse {s : State} {csAcc : Half} {tx : TxUnit} {rx : RxUnit} {d : Half} {st : Status}
    (hst : st ≠ .ok) : complete d { s with csAcc := csAcc, tx := tx, rx := rx } ≠ refuse st s :=
  fun h => hst (status_eq_of_respond_eq (complete_eq_next.1 h))

/-! ### The listed causes -/

/-- The operations that change the Packet or start its emission: those of R103. -/
def LoadsPacket (i : Instr) : Prop :=
  i = .txStart ∨ (∃ x, i = .txSetArg x) ∨ ∃ b, i = .txSetSrc b ∨ i = .txSetDst b ∨ i = .txSetCmd b ∨ i = .txPush b

/-- The complete lists of R154, R155 and R156: what makes an operation refused, and with which status. -/
inductive RefusalCause (s : State) : Instr → Status → Prop
  | argTooWide (x : Half) (hload : s.tx.state = .load) (hone : s.cfg.argBytes = .one) (hx : 0xFF < x.toNat) :
      RefusalCause s (.txSetArg x) .badOperand
  | indexPastCount (j : Byte) (hj : s.rx.cnt s.cfg ≤ j.toNat) : RefusalCause s (.rxRdBuf j) .badOperand
  | loadWhileEmitting {i : Instr} (hemit : s.tx.state = .emit) (hi : LoadsPacket i) : RefusalCause s i .badState
  | popWhileLoading (hload : s.tx.state = .load) : RefusalCause s .txPop .badState
  | pushAfterEnd (b : Byte) (hne : s.rx.state ≠ .recv) : RefusalCause s (.rxPush b) .badState
  | bufferFull (b : Byte) (hload : s.tx.state = .load) (hfull : s.tx.len = s.cfg.payloadMax) :
      RefusalCause s (.txPush b) .full

theorem refusalCause_badOperand_iff {s : State} {i : Instr} :
    RefusalCause s i .badOperand ↔
      (∃ x : Half, i = .txSetArg x ∧ s.tx.state = .load ∧ s.cfg.argBytes = .one ∧ 0xFF < x.toNat) ∨
      (∃ j : Byte, i = .rxRdBuf j ∧ s.rx.cnt s.cfg ≤ j.toNat) := by
  constructor
  · intro h
    cases h with
    | argTooWide x hload hone hx => exact .inl ⟨x, rfl, hload, hone, hx⟩
    | indexPastCount j hj => exact .inr ⟨j, rfl, hj⟩
  · rintro (⟨x, rfl, hload, hone, hx⟩ | ⟨j, rfl, hj⟩)
    · exact .argTooWide x hload hone hx
    · exact .indexPastCount j hj

theorem refusalCause_badState_iff {s : State} {i : Instr} :
    RefusalCause s i .badState ↔
      (s.tx.state = .emit ∧ LoadsPacket i) ∨ (s.tx.state = .load ∧ i = .txPop) ∨
        (s.rx.state ≠ .recv ∧ ∃ b, i = .rxPush b) := by
  constructor
  · intro h
    cases h with
    | loadWhileEmitting hemit hi => exact .inl ⟨hemit, hi⟩
    | popWhileLoading hload => exact .inr (.inl ⟨hload, rfl⟩)
    | pushAfterEnd b hne => exact .inr (.inr ⟨hne, b, rfl⟩)
  · rintro (⟨hemit, hi⟩ | ⟨hload, rfl⟩ | ⟨hne, b, rfl⟩)
    · exact .loadWhileEmitting hemit hi
    · exact .popWhileLoading hload
    · exact .pushAfterEnd b hne

theorem refusalCause_full_iff {s : State} {i : Instr} :
    RefusalCause s i .full ↔ ∃ b, i = .txPush b ∧ s.tx.state = .load ∧ s.tx.len = s.cfg.payloadMax := by
  constructor
  · intro h
    cases h with
    | bufferFull b hload hfull => exact ⟨b, rfl, hload, hfull⟩
  · rintro ⟨b, rfl, hload, hfull⟩
    exact .bufferFull b hload hfull

/-! ### Operations are refused for the listed causes only -/

/-- R97: in `LOAD` an argument that does not fit one byte is refused where `A = 1`. -/
theorem execTxSetArg_tooWide {s : State} {x : Half} (hload : s.tx.state = .load) (hone : s.cfg.argBytes = .one)
    (hx : 0xFF < x.toNat) : execTxSetArg x s = refuse .badOperand s := by
  have hnot : ¬ s.cfg.argBytes.fits x = true := by
    rw [ArgBytes.fits_iff, hone]
    rintro (htwo | hlt)
    · cases htwo
    · omega
  rw [execTxSetArg, whileLoading_load hload, if_neg hnot]

/-- R103: in `EMIT` the operations that load are refused. -/
theorem LoadsPacket.exec_emit {i : Instr} (hi : LoadsPacket i) {s : State} (hemit : s.tx.state = .emit) :
    exec i s = refuse .badState s := by
  obtain rfl | ⟨x, rfl⟩ | ⟨b, rfl | rfl | rfl | rfl⟩ := hi
  all_goals exact whileLoading_emit hemit _

/-- Each listed cause leads to its refusal. -/
theorem RefusalCause.exec_eq {s : State} {i : Instr} {st : Status} (h : RefusalCause s i st) :
    exec i s = refuse st s := by
  cases h with
  | argTooWide x hload hone hx => exact execTxSetArg_tooWide hload hone hx
  | indexPastCount j hj => exact if_pos hj
  | loadWhileEmitting hemit hi => exact hi.exec_emit hemit
  | popWhileLoading hload => exact execTxPop_load hload
  | pushAfterEnd b hne => exact execRxPush_refused hne b
  | bufferFull b hload hfull => exact execTxPush_full hload hfull b

/-- The check of R103: a refusal is its own, in `EMIT`, or that of the operation behind it, in `LOAD`. -/
theorem RefusalCause.of_whileLoading {s : State} {i : Instr} {st : Status} {r : Result} (hi : LoadsPacket i)
    (hr : s.tx.state = .load → r = refuse st s → RefusalCause s i st) (h : whileLoading s r = refuse st s) :
    RefusalCause s i st := by
  cases hs : s.tx.state with
  | load => exact hr hs (whileLoading_load hs r ▸ h)
  | emit =>
    obtain rfl := status_eq_of_refuse_eq (whileLoading_emit hs r ▸ h)
    exact .loadWhileEmitting hs hi

theorem RefusalCause.of_execTxSetArg {s : State} {x : Half} {st : Status} (hst : st ≠ .ok)
    (h : execTxSetArg x s = refuse st s) : RefusalCause s (.txSetArg x) st := by
  refine .of_whileLoading (.inr (.inl ⟨x, rfl⟩)) (fun hload hr => ?_) h
  split_ifs at hr with hfits
  · exact absurd hr (complete_ne_refuse hst)
  · obtain rfl := status_eq_of_refuse_eq hr
    rw [ArgBytes.fits_iff, not_or] at hfits
    obtain ⟨hone, hx⟩ := hfits
    cases ha : s.cfg.argBytes with
    | one => exact .argTooWide x hload ha (by omega)
    | two => exact absurd ha hone

theorem RefusalCause.of_execTxPush {s : State} {b : Byte} {st : Status} (hst : st ≠ .ok)
    (h : execTxPush b s = refuse st s) : RefusalCause s (.txPush b) st := by
  refine .of_whileLoading (.inr (.inr ⟨b, by simp⟩)) (fun hload hr => ?_) h
  split_ifs at hr with hfull
  · obtain rfl := status_eq_of_refuse_eq hr
    exact .bufferFull b hload hfull
  · exact absurd hr (complete_ne_refuse hst)

theorem RefusalCause.of_execTxPop {s : State} {st : Status} (hst : st ≠ .ok) (h : execTxPop s = refuse st s) :
    RefusalCause s .txPop st := by
  obtain ⟨hload, ht⟩ | ⟨-, -, b, -, ht⟩ | ⟨-, -, ht⟩ | ⟨-, -, ht⟩ := execTxPop_cases h
  · obtain rfl := status_eq_of_respond_eq ht
    exact .popWhileLoading hload
  all_goals exact absurd (status_eq_of_respond_eq ht) hst

theorem RefusalCause.of_execRxPush {s : State} {b : Byte} {st : Status} (hst : st ≠ .ok)
    (h : execRxPush b s = refuse st s) : RefusalCause s (.rxPush b) st := by
  obtain ⟨hne, ht⟩ | ⟨-, ph, -, ht⟩ := execRxPush_cases h
  · obtain rfl := status_eq_of_respond_eq ht
    exact .pushAfterEnd b hne
  · exact absurd (status_eq_of_respond_eq ht) hst

theorem RefusalCause.of_execRxRdBuf {s : State} {j : Byte} {st : Status} (hst : st ≠ .ok)
    (h : execRxRdBuf j s = refuse st s) : RefusalCause s (.rxRdBuf j) st := by
  obtain ⟨hj, ht⟩ | ⟨-, b, -, ht⟩ := execRxRdBuf_cases h
  · obtain rfl := status_eq_of_respond_eq ht
    exact .indexPastCount j hj
  · exact absurd (status_eq_of_respond_eq ht) hst

/-- A refused operation has a listed cause. -/
theorem RefusalCause.of_exec {s : State} {i : Instr} {st : Status} (hst : st ≠ .ok) (h : exec i s = refuse st s) :
    RefusalCause s i st := by
  cases i with
  | txSetSrc | txSetDst | txSetCmd | txStart =>
    exact .of_whileLoading (by simp [LoadsPacket]) (fun _ hr => absurd hr (complete_ne_refuse hst)) h
  | txSetArg => exact .of_execTxSetArg hst h
  | txPush => exact .of_execTxPush hst h
  | txPop => exact .of_execTxPop hst h
  | rxPush => exact .of_execRxPush hst h
  | rxRdBuf => exact .of_execRxRdBuf hst h
  | csClr | csAdd | csGet | txClr | txStat | txGetLen | rxClr | rxEnd | rxStat | rxGetSrc | rxGetDst | rxGetCmd
  | rxGetArg | rxGetLen | rxGetCk | rxGetCalc | addrCls | cfgGet => exact absurd h (complete_ne_refuse hst)

/-- R154 to R156: an operation is refused with a status exactly for a cause listed for that status. -/
theorem exec_eq_refuse_iff {s : State} {i : Instr} {st : Status} (hst : st ≠ .ok) :
    exec i s = refuse st s ↔ RefusalCause s i st :=
  ⟨.of_exec hst, RefusalCause.exec_eq⟩

/-- The response shows the refusal: an operation whose response is a refusal has done nothing else (R10). -/
theorem responses_eq_refusal_iff {i : Instr} {s t : State} {st : Status} (h : exec i s = .next t) (hst : st ≠ .ok) :
    t.responses = s.responses ++ [rspWord st 0] ↔ exec i s = refuse st s := by
  constructor
  · intro hresp
    cases exec_answered h with
    | completed => exact absurd (status_eq_of_responses_eq hresp).symm hst
    | refused st' => exact status_eq_of_responses_eq hresp ▸ h
  · intro hrefuse
    rw [refuse_eq_next.1 (hrefuse.symm.trans h)]
    rfl

/-! ### The obligation -/

/-- Settles O51: the response shows the refusal (`responses_eq_refusal_iff`), and the refusal its cause
(`exec_eq_refuse_iff`); no cause is listed for `ILLEGAL_OP`. -/
theorem refusalCausesAreComplete : Obligations.RefusalCausesAreComplete := by
  intro i s t h
  have hcause {st : Status} (hst : st ≠ .ok) :
      t.responses = s.responses ++ [rspWord st 0] ↔ RefusalCause s i st :=
    (responses_eq_refusal_iff h hst).trans (exec_eq_refuse_iff hst)
  have hkept {st : Status} (hst : st ≠ .ok) (hresp : t.responses = s.responses ++ [rspWord st 0]) :
      t = { s with responses := t.responses } := by
    rw [refuse_eq_next.1 (((responses_eq_refusal_iff h hst).1 hresp).symm.trans h)]
    rfl
  refine ⟨(hcause (by decide)).trans refusalCause_badOperand_iff, (hcause (by decide)).trans refusalCause_badState_iff,
    (hcause (by decide)).trans refusalCause_full_iff, ?_, fun hill => ?_⟩
  · rintro (hresp | hresp | hresp)
    all_goals exact hkept (by decide) hresp
  · cases (hcause (by decide)).1 hill

end Sys2Proof.Machine
end

section
/-!
PROOFS. 70_reset_and_hazards.md: the reset input and what is read after it (R175, R176), the state machines of the two
units (R180, R181), and the completion of every operation (R191). What leaves a state is read off the cases of
`exec_changes`; what an operation does in a given state, off its own equation.
-/

open Sys2Proof Sys2Proof.Machine Sys2Proof.Certificates

namespace Sys2Proof.Machine

/-! ### One response for each command word -/

/-- A command word is taken off the port and answered by one response word, legal or not (R10, R191). -/
theorem step_command_responds {s : State} (h : Inv s) {w : CmdWord} {rest : List PortEvent}
    (hp : s.pending = .command w :: rest) :
    ∃ t, step s = .next t ∧ Inv t ∧ t.pending = rest ∧ t.responses.length = s.responses.length + 1 := by
  obtain ⟨t, ht⟩ := step_completes h
  refine ⟨t, ht, step_keeps_inv h ht, ?_⟩
  cases step_command_answered hp ht with
  | completed | refused => exact ⟨rfl, List.length_append⟩

/-- R191: command words, one step for each. -/
theorem run_commandWords (ws : List CmdWord) {s : State} (h : Inv s) (hp : s.pending = ws.map .command) :
    ∃ t, Sys2Proof.core.run ws.length s = .next t ∧ t.pending = [] ∧
      t.responses.length = s.responses.length + ws.length := by
  induction ws generalizing s with
  | nil => exact ⟨s, rfl, hp, rfl⟩
  | cons w ws ih =>
    obtain ⟨u, hstep, hu, hpu, hlen⟩ := step_command_responds h hp
    obtain ⟨t, hrun, hpt, hlent⟩ := ih hu hpu
    refine ⟨t, (run_succ hstep ws.length).trans hrun, hpt, ?_⟩
    rw [hlent, hlen, List.length_cons]
    omega

/-! ### The reset input and the three clears -/

/-- R175: `CS_CLR`, `TX_CLR` and `RX_CLR` leave the registers as the reset input does, with a response each. -/
theorem run_clears (s : State) (rest : List PortEvent) :
    Sys2Proof.core.run 3 { s with pending := commands [.csClr, .txClr, .rxClr] ++ rest } =
      .next { State.applyReset { s with pending := rest } with
        responses := s.responses ++ [rspWord .ok 0, rspWord .ok 0, rspWord .ok 0] } := by
  refine (run_command (i := .csClr) (s := s) rfl 2).trans ?_
  refine (run_command (i := .txClr) (s := { s with csAcc := 0, responses := s.responses ++ [rspWord .ok 0] })
    (rest := commands [.rxClr] ++ rest) rfl 1).trans ?_
  refine (run_command (i := .rxClr) (s := { s with
    csAcc := 0, tx := s.tx.clear, responses := s.responses ++ [rspWord .ok 0] ++ [rspWord .ok 0] })
    (rest := rest) rfl 0).trans ?_
  simp only [State.respond, List.append_assoc]
  rfl

theorem afterReset_applyReset (s : State) : AfterReset s.applyReset := ⟨rfl, rfl, rfl⟩

/-- An operation that only answers, its data known. -/
theorem complete_of_eq {d d' : Half} (hd : d = d') (s : State) :
    complete d s = .next { s with responses := s.responses ++ [rspWord .ok d'] } := by
  rw [hd]
  rfl

theorem txStatusWord_of_afterReset {s : State} (h : AfterReset s) : txStatusWord s.tx = 0 := by
  rw [h.tx]
  exact BitVec.eq_of_toNat_eq (txStatusWord_toNat _)

theorem rxStatusWord_of_afterReset {s : State} (h : AfterReset s) : rxStatusWord s.rx = 0 := by
  rw [h.rx]
  exact BitVec.eq_of_toNat_eq (rxStatusWord_toNat _)

/-- R31: with no byte received no buffer byte can be read. -/
theorem cnt_of_afterReset {s : State} (h : AfterReset s) : s.rx.cnt s.cfg = 0 := by
  rw [h.rx]
  exact RxUnit.cnt_header (Nat.zero_le _)

theorem accChecksum_of_zero {a : Half} (ha : a = 0) : accChecksum a = 0xFFFF := by
  rw [ha]
  rfl

/-! ### The TX state machine -/

/-- R180: out of `LOAD` there is one way. -/
theorem TxChange.start_of_load {c : Config} {t t' : TxUnit} {i : Instr} (h : TxChange c t i t')
    (hload : t.state = .load) (hemit : t'.state = .emit) : i = .txStart := by
  cases h with
  | start => rfl
  | same | clear | setSrc | setDst | setCmd | setArg | push | popLast => simp [hload] at hemit
  | popContent hemit' | popLow hemit' => simp [hload] at hemit'

/-- R180: out of `EMIT` there are two ways. -/
theorem TxChange.clear_or_pop_of_emit {c : Config} {t t' : TxUnit} {i : Instr} (h : TxChange c t i t')
    (hemit : t.state = .emit) (hload : t'.state = .load) : i = .txClr ∨ i = .txPop := by
  cases h with
  | clear => exact .inl rfl
  | popContent | popLow | popLast => exact .inr rfl
  | same | setSrc | setDst | setCmd | setArg | push | start => simp [hemit] at hload

theorem exec_txClr_tx {s t : State} (ht : exec .txClr s = .next t) : t.tx = TxUnit.atReset s.tx.buf := by
  rw [complete_eq_next.1 ht]
  rfl

/-- R99. -/
theorem exec_txStart_tx {s t : State} (hload : s.tx.state = .load) (ht : exec .txStart s = .next t) :
    t.tx = { s.tx with state := .emit, pos := 0, acc := 0 } := by
  rw [complete_eq_next.1 ((execTxStart_load hload).symm.trans ht)]
  rfl

/-- R100, R180: before the last position of the frame a `TX_POP` advances, at it the emission ends. -/
theorem exec_txPop_tx {s t : State} (h : Inv s) (hemit : s.tx.state = .emit) (ht : exec .txPop s = .next t) :
    s.tx.pos.toNat + 1 < s.cfg.frameLen s.tx.len.toNat ∧ t.tx.state = .emit ∧ t.tx.pos.toNat = s.tx.pos.toNat + 1 ∨
    s.tx.pos.toNat + 1 = s.cfg.frameLen s.tx.len.toNat ∧ t.tx.state = .load := by
  have hframe := s.cfg.frameLen_eq s.tx.len.toNat
  have hpos := h.tx_emit_pos hemit
  have hsucc := pos_succ_toNat hpos
  obtain ⟨hload, -⟩ | ⟨-, hlt, b, -, rfl⟩ | ⟨-, heq, rfl⟩ | ⟨-, hgt, rfl⟩ := execTxPop_cases ht
  · simp [hemit] at hload
  · exact .inl ⟨by omega, hemit, hsucc⟩
  · exact .inl ⟨by omega, hemit, hsucc⟩
  · exact .inr ⟨by omega, rfl⟩

/-! ### The RX state machine -/

/-- R129: a position has one phase. -/
theorem RxPhase.At.eq_iff {c : Config} {n : Byte} {q : Nat} {ph ph' : RxPhase} (h : ph.At c n q) :
    ph = ph' ↔ ph'.At c n q := by
  rw [← rxPhase_eq_some_iff, rxPhase_eq_some_iff.2 h, Option.some_inj]

/-- R129: the last position of a frame is that of the high checksum byte, which is past the header. -/
theorem at_ck1_iff {c : Config} {n : Byte} {q : Nat} :
    RxPhase.ck1.At c n q ↔ q + 1 = c.frameLen n.toNat ∧ c.headerLen ≤ q := by
  have hframe := c.frameLen_eq n.toNat
  have hcontent := c.contentLen_eq n.toNat
  simp only [RxPhase.At]
  omega

/-- R129: the last position of the header is that of the length byte. -/
theorem at_len_iff {c : Config} {n : Byte} {q : Nat} : RxPhase.len.At c n q ↔ q + 1 = c.headerLen := by
  have hheader := c.headerLen_eq
  simp only [RxPhase.At]
  omega

/-- R116: only the length byte and the high checksum byte can end a frame. -/
theorem RxUnit.push_state_of_ne {ph : RxPhase} (hlen : ph ≠ .len) (hck1 : ph ≠ .ck1) (c : Config) (b : Byte)
    (r : RxUnit) : (r.push c ph b).state = r.state := by
  cases ph with
  | len => exact absurd rfl hlen
  | ck1 => exact absurd rfl hck1
  | src | dst | cmd | arg0 | arg1 | payload | ck0 => rfl

/-- R116, R151, R152: the bytes that end a frame, and how each ends it. -/
theorem RxUnit.push_ends_iff {c : Config} {r : RxUnit} {ph : RxPhase} {b : Byte} (hrecv : r.state = .recv) :
    ((r.push c ph b).state = .done ↔ ph = .ck1 ∧ joinBytes b (lowByte r.ck) = accChecksum r.acc) ∧
    ((r.push c ph b).state = .err ∧ (r.push c ph b).err = .checksum ↔
      ph = .ck1 ∧ joinBytes b (lowByte r.ck) ≠ accChecksum r.acc) ∧
    ((r.push c ph b).state = .err ∧ (r.push c ph b).err = .framing ↔ ph = .len ∧ c.payloadMax < b) := by
  cases ph with
  | src | dst | cmd | arg0 | arg1 | payload | ck0 => simp [RxUnit.push_state_of_ne, hrecv]
  | len =>
    rw [RxUnit.push_len]
    split_ifs with hover
    · simp [hover]
    · simp [hover, hrecv]
  | ck1 =>
    rw [RxUnit.push_ck1]
    split_ifs with hck
    · simp [hck]
    · simp [hck]

/-- R181: in `RECV` an operation gives the unit a byte, ends the input, or leaves the unit in `RECV`. -/
theorem exec_rx_of_recv {i : Instr} {s t : State} (hrecv : s.rx.state = .recv) (ht : exec i s = .next t) :
    (∃ b ph, i = .rxPush b ∧ ph.At s.cfg s.rx.len s.rx.pos.toNat ∧ t.rx = s.rx.push s.cfg ph b) ∨
    (i = .rxEnd ∧ t.rx = s.rx.raise .framing) ∨
    ((∀ b, i ≠ .rxPush b) ∧ i ≠ .rxEnd ∧ t.rx.state = .recv) := by
  by_cases hpush : ∃ b, i = .rxPush b
  · obtain ⟨b, rfl⟩ := hpush
    obtain ⟨hne, -⟩ | ⟨-, ph, hph, rfl⟩ := execRxPush_cases ht
    · exact absurd hrecv hne
    · exact .inl ⟨b, ph, rfl, rxPhase_at hph, rfl⟩
  · by_cases hend : i = .rxEnd
    · subst hend
      have hrx : t.rx = s.rx.finish := congrArg State.rx (complete_eq_next.1 ht)
      exact .inr (.inl ⟨rfl, hrx.trans (RxUnit.finish_recv hrecv)⟩)
    · refine .inr (.inr ⟨not_exists.1 hpush, hend, ?_⟩)
      obtain ⟨-, -, -, -, hrx⟩ := exec_changes ht
      generalize t.rx = r at hrx
      cases hrx with
      | same => exact hrecv
      | clear => rfl
      | push _ b => exact absurd ⟨b, rfl⟩ hpush
      | truncate => exact absurd rfl hend

/-- R161, R181: in the terminal states exactly `RX_CLR` leads back to `RECV`. -/
theorem exec_recv_iff_of_terminal {i : Instr} {s t : State} (hne : s.rx.state ≠ .recv) (ht : exec i s = .next t) :
    t.rx.state = .recv ↔ i = .rxClr := by
  constructor
  · intro hrecv
    by_contra hi
    exact hne ((resultIsHeldUntilCleared s hne).1 i t hi ht ▸ hrecv)
  · rintro rfl
    rw [complete_eq_next.1 ht]
    rfl

/-! ### The obligations -/

/-- Settles O10: a step completes (`step_completes`), and every command word is answered (`run_commandWords`). -/
theorem everyOperationCompletes : Obligations.EveryOperationCompletes :=
  ⟨fun _ h => step_completes h, fun _ ws h hp => run_commandWords ws h hp⟩

/-- Settles O33: the ways out of a state (`TxChange.start_of_load`, `TxChange.clear_or_pop_of_emit`), and what the
operations on them do. -/
theorem txStateMachine : Obligations.TxStateMachine := by
  intro s t i h ht
  have hchange := (exec_changes ht).tx
  refine ⟨fun hload => ⟨hchange.start_of_load hload, ?_⟩, fun hemit => ⟨fun hload => ?_, ?_⟩, ?_, ?_, ?_⟩
  · rintro rfl
    rw [exec_txStart_tx hload ht]
  · obtain rfl | rfl := hchange.clear_or_pop_of_emit hemit hload
    · exact .inl rfl
    · obtain ⟨-, hstill, -⟩ | ⟨hlast, -⟩ := exec_txPop_tx h hemit ht
      · simp [hload] at hstill
      · exact .inr ⟨rfl, hlast⟩
  · rintro (rfl | ⟨rfl, hlast⟩)
    · rw [exec_txClr_tx ht]
      rfl
    · obtain ⟨hlt, -⟩ | ⟨-, hload⟩ := exec_txPop_tx h hemit ht
      · exact absurd hlast hlt.ne
      · exact hload
  · rintro hemit rfl hlt
    obtain ⟨-, -, hpos⟩ | ⟨hlast, -⟩ := exec_txPop_tx h hemit ht
    · exact hpos
    · exact absurd hlast hlt.ne
  · rintro rfl
    exact exec_txClr_tx ht
  · rintro hload rfl
    rw [exec_txStart_tx hload ht]
    exact ⟨rfl, rfl⟩

/-- Settles O44: the three kinds of operation in `RECV` (`exec_rx_of_recv`), the ends of a frame by a byte
(`RxUnit.push_ends_iff`), and the way back. -/
theorem rxStateMachine : Obligations.RxStateMachine := by
  intro s t i _ ht
  refine ⟨fun hrecv => ?_, fun hne => exec_recv_iff_of_terminal hne ht⟩
  obtain ⟨b, ph, rfl, hat, hrx⟩ | ⟨rfl, hrx⟩ | ⟨hpush, hend, hrx⟩ := exec_rx_of_recv hrecv ht
  · obtain ⟨hdone, hchecksum, hframing⟩ := RxUnit.push_ends_iff (c := s.cfg) (ph := ph) (b := b) hrecv
    rw [hat.eq_iff, at_ck1_iff, joinBytes_eq_accChecksum_iff, and_assoc] at hdone
    rw [hat.eq_iff, at_ck1_iff, Ne, joinBytes_eq_accChecksum_iff, and_assoc] at hchecksum
    rw [hat.eq_iff, at_len_iff, BitVec.lt_def] at hframing
    rw [hrx, hdone, hchecksum, hframing]
    simp
  · simp [hrx]
  · simp [hrx, hpush, hend]

/-- Settles O12: the reset input (`step_of_reset`), the clears (`run_clears`), and each read of a register at its reset
value. -/
theorem resetInputEqualsTheThreeClears : Obligations.ResetInputEqualsTheThreeClears := by
  refine ⟨fun s rest => ⟨State.applyReset { s with pending := rest }, step_of_reset rfl, afterReset_applyReset _,
    rfl, rfl, rfl, rfl, rfl, run_clears s rest⟩, fun s h => ?_⟩
  have hreg (f : RxUnit → Half) (hf : f (RxUnit.atReset s.rx.buf) = 0) :
      complete (f s.rx) s = .next { s with responses := s.responses ++ [rspWord .ok 0] } :=
    complete_of_eq ((congrArg f h.rx).trans hf) s
  refine ⟨complete_of_eq (accChecksum_of_zero h.cs) s, complete_of_eq (txStatusWord_of_afterReset h) s,
    complete_of_eq (rxStatusWord_of_afterReset h) s,
    complete_of_eq (congrArg (fun u : TxUnit => zext u.len) h.tx) s, hreg (fun r => zext r.src) rfl,
    hreg (fun r => zext r.dst) rfl, hreg (fun r => zext r.cmd) rfl, hreg RxUnit.arg rfl,
    hreg (fun r => zext r.len) rfl, hreg RxUnit.ck rfl,
    complete_of_eq (accChecksum_of_zero (congrArg RxUnit.acc h.rx)) s, fun j => ?_⟩
  exact if_pos ((cnt_of_afterReset h).trans_le (Nat.zero_le _))

end Sys2Proof.Machine
end
